-- ==== Sys2Proof/Word.lean ====
section
/-! DEFINITION. The words of the block: bytes, bus words and register addresses
(00_scope.md R6 `DATA_WIDTH`, `ADDR_WIDTH`; 30_encoding.md R71). -/

namespace Sys2Proof

/-- One byte: what every bus transaction moves (20_memory.md R54). -/
abbrev Byte := BitVec 8

/-- One bus transaction word of format `BUS16` (30_encoding.md R71). -/
abbrev Word := BitVec 16

/-- A register address, 0x00 to 0x3F (10_state.md R24). -/
abbrev Addr := BitVec 6

end Sys2Proof
end

