-- ==== Sys2Proof/Syntax.lean ====
section
/-! DEFINITION. What the host writes: the bus transactions (one constructor per row of
opcode_table.json), the registers of the address map, and the assembler's lines. -/

namespace Sys2Proof

/-- A bus transaction, one constructor per row of opcode_table.json (30_encoding.md R77). -/
inductive Instr where
  /-- `INVALID` (R72, R101): a word with bit 14 set. `top` is bit 15, `low` is bits 13:0; the two
  keep every bit of the word. -/
  | invalid (top : BitVec 1) (low : BitVec 14)
  /-- `RD A` (40_bus_access.md R90). The word's `D` field is ignored and is not kept. -/
  | rd (a : Addr)
  /-- `WR A, D` to a read-only or reserved address (R99). -/
  | wr (a : Addr) (d : Byte)
  /-- `WR KEYi, D` (R98). -/
  | wrKey (i : Fin 16) (d : Byte)
  /-- `WR DINi, D` (R97). -/
  | wrDin (i : Fin 8) (d : Byte)
  /-- `WR KEYLEN, D` (R94). -/
  | wrKeylen (d : Byte)
  /-- `WR DINLEN, D` (R95). -/
  | wrDinlen (d : Byte)
  /-- `WR CK_IN, D` (R96; 43_checksum.md R151). -/
  | ckin (d : Byte)
  /-- `WR CMD, c` with a reserved code `c` (44_control.md R183). -/
  | cmdRsvd (c : Byte)
  /-- `NOP`, code 0x00 (44_control.md R182). -/
  | nop
  /-- `ENC`, code 0x01 (41_cipher.md R114). -/
  | enc
  /-- `DEC`, code 0x02 (41_cipher.md R116). -/
  | dec
  /-- `CKCLR`, code 0x40 (43_checksum.md R154). -/
  | ckclr
  /-- `CLRERR`, code 0xC0 (44_control.md R180). -/
  | clrerr
  /-- `SRST`, code 0xC1 (44_control.md R181). -/
  | srst
deriving DecidableEq, Repr

/-- The rows' mnemonics, in the table's order (30_encoding.md R77). -/
inductive Mnemonic where
  | INVALID | RD | WR | WR_KEY | WR_DIN | WR_KEYLEN | WR_DINLEN | CKIN | CMD_RSVD
  | NOP | ENC | DEC | CKCLR | CLRERR | SRST
deriving DecidableEq, Repr

/-- The row an instruction belongs to. -/
def Instr.mnemonic : Instr → Mnemonic
  | .invalid _ _ => .INVALID
  | .rd _ => .RD
  | .wr _ _ => .WR
  | .wrKey _ _ => .WR_KEY
  | .wrDin _ _ => .WR_DIN
  | .wrKeylen _ => .WR_KEYLEN
  | .wrDinlen _ => .WR_DINLEN
  | .ckin _ => .CKIN
  | .cmdRsvd _ => .CMD_RSVD
  | .nop => .NOP
  | .enc => .ENC
  | .dec => .DEC
  | .ckclr => .CKCLR
  | .clrerr => .CLRERR
  | .srst => .SRST

/-- The registers of the address map (10_state.md R24), by name. -/
inductive Reg where
  | cmd | status | errcode | keylen | dinlen | sumLo | sumHi | ckxor | ckchk | ckcpl | ckIn
  | din (i : Fin 8)
  | dout (i : Fin 8)
  | key (i : Fin 16)
  /-- An address of 0x0B to 0x0F or 0x30 to 0x3F (R38). -/
  | reserved (a : Addr)
deriving DecidableEq, Repr

/-- One operation of the host's program: a transaction, or the host's own `POLL` loop
(30_encoding.md R70, R80). -/
inductive HostOp where
  | txn (w : Word)
  | poll
deriving DecidableEq, Repr

/-- A line of the assembler (30_encoding.md R79) or a pseudo-instruction (R80). -/
inductive AsmLine where
  | rd (r : Reg)
  | wr (r : Reg) (d : Byte)
  | nop | enc | dec | ckclr | clrerr | srst
  | ckin (b : Byte)
  | ldkey (ks : List Byte)
  | ldblk (bs : Vector Byte 8)
  | rdblk
  | poll
deriving DecidableEq, Repr

end Sys2Proof
end

