-- ==== Sys2Proof/WellFormed.lean ====
section
/-! DEFINITION. Which terms of `Instr`, `Reg` and `AsmLine` the spec's encodings can carry. -/

namespace Sys2Proof

/-- The addresses of 40_bus_access.md R99: read-only or reserved, where a write is ignored. -/
def writeIgnored (a : Addr) : Bool :=
  let n := a.toNat
  n == 0x01 || n == 0x02 || (0x05 ≤ n && n ≤ 0x09) || (0x0B ≤ n && n ≤ 0x0F)
    || (0x18 ≤ n && n ≤ 0x1F) || 0x30 ≤ n

/-- The reserved addresses of 10_state.md R38. -/
def reservedAddr (a : Addr) : Bool :=
  let n := a.toNat
  (0x0B ≤ n && n ≤ 0x0F) || 0x30 ≤ n

/-- The six defined command codes of 30_encoding.md R74. -/
def definedCode (c : Byte) : Bool :=
  c == 0x00 || c == 0x01 || c == 0x02 || c == 0x40 || c == 0xC0 || c == 0xC1

/-- A transaction that some word of the encoding spells: the generic `WR` row carries only the
addresses of R99 (R77), and `CMD_RSVD` only reserved codes (R183). -/
def Instr.wellFormed : Instr → Bool
  | .invalid _ _ => true
  | .rd _ => true
  | .wr a _ => writeIgnored a
  | .wrKey _ _ => true
  | .wrDin _ _ => true
  | .wrKeylen _ => true
  | .wrDinlen _ => true
  | .ckin _ => true
  | .cmdRsvd c => !definedCode c
  | .nop => true
  | .enc => true
  | .dec => true
  | .ckclr => true
  | .clrerr => true
  | .srst => true

/-- A register name that stands for one address: `reserved` only for the addresses of R38. -/
def Reg.wellFormed : Reg → Bool
  | .reserved a => reservedAddr a
  | .cmd | .status | .errcode | .keylen | .dinlen | .sumLo | .sumHi | .ckxor | .ckchk | .ckcpl
  | .ckIn | .din _ | .dout _ | .key _ => true

/-- A line the assembler accepts: `LDKEY` loads at most the 16 bytes of `KEY` (R80). -/
def AsmLine.wellFormed : AsmLine → Bool
  | .rd r => r.wellFormed
  | .wr r _ => r.wellFormed
  | .ldkey ks => ks.length ≤ 16
  | .nop | .enc | .dec | .ckclr | .clrerr | .srst | .ckin _ | .ldblk _ | .rdblk | .poll => true

end Sys2Proof
end

