-- ==== Sys2Proof/Decode.lean ====
section
/-! DEFINITION. Decoding (30_encoding.md R71 to R78), the encoder, and the opcode table as data. -/

namespace Sys2Proof

/-! ### The address map -/

/-- The register at an address (10_state.md R24); total. -/
def Reg.ofAddr (a : Addr) : Reg :=
  if hd : 0x10 ≤ a.toNat ∧ a.toNat ≤ 0x17 then .din ⟨a.toNat - 0x10, by omega⟩
  else if ho : 0x18 ≤ a.toNat ∧ a.toNat ≤ 0x1F then .dout ⟨a.toNat - 0x18, by omega⟩
  else if hk : 0x20 ≤ a.toNat ∧ a.toNat ≤ 0x2F then .key ⟨a.toNat - 0x20, by omega⟩
  else
    match a with
    | 0x00#6 => .cmd
    | 0x01#6 => .status
    | 0x02#6 => .errcode
    | 0x03#6 => .keylen
    | 0x04#6 => .dinlen
    | 0x05#6 => .sumLo
    | 0x06#6 => .sumHi
    | 0x07#6 => .ckxor
    | 0x08#6 => .ckchk
    | 0x09#6 => .ckcpl
    | 0x0A#6 => .ckIn
    | a => .reserved a

/-- The address of a register (R24). -/
def Reg.addr : Reg → Addr
  | .cmd => 0x00
  | .status => 0x01
  | .errcode => 0x02
  | .keylen => 0x03
  | .dinlen => 0x04
  | .sumLo => 0x05
  | .sumHi => 0x06
  | .ckxor => 0x07
  | .ckchk => 0x08
  | .ckcpl => 0x09
  | .ckIn => 0x0A
  | .din i => BitVec.ofNat 6 (0x10 + i)
  | .dout i => BitVec.ofNat 6 (0x18 + i)
  | .key i => BitVec.ofNat 6 (0x20 + i)
  | .reserved a => a

/-! ### The decoder -/

/-- The command byte of a `WR CMD, D` (30_encoding.md R74, R75). -/
def decodeCommand (d : Byte) : Instr :=
  match d with
  | 0x00#8 => .nop
  | 0x01#8 => .enc
  | 0x02#8 => .dec
  | 0x40#8 => .ckclr
  | 0xC0#8 => .clrerr
  | 0xC1#8 => .srst
  | c => .cmdRsvd c

/-- The row of a write, by address (30_encoding.md R78). -/
def decodeWrite (a : Addr) (d : Byte) : Instr :=
  match Reg.ofAddr a with
  | .cmd => decodeCommand d
  | .keylen => .wrKeylen d
  | .dinlen => .wrDinlen d
  | .ckIn => .ckin d
  | .din i => .wrDin i d
  | .key i => .wrKey i d
  | .status | .errcode | .sumLo | .sumHi | .ckxor | .ckchk | .ckcpl | .dout _ | .reserved _ =>
    .wr a d

/-- The decoder (30_encoding.md R72): total, and a word with bit 14 set is rejected by name, as the
transaction `INVALID`. -/
def decode (w : Word) : Instr :=
  if w.getLsbD 14 then .invalid (w.extractLsb' 15 1) (w.extractLsb' 0 14)
  else if w.getLsbD 15 then decodeWrite (w.extractLsb' 8 6) (w.extractLsb' 0 8)
  else .rd (w.extractLsb' 8 6)

/-! ### The encoder -/

/-- A `BUS16` word from its fields `W`, `Z`, `A`, `D` (30_encoding.md R71). -/
def busWord (w z : BitVec 1) (a : Addr) (d : Byte) : Word := w ++ z ++ a ++ d

/-- The word of a read; an assembler writes 0 in `D` (R71). -/
def readWord (a : Addr) : Word := busWord 0#1 0#1 a 0#8

/-- The word of a write. -/
def writeWord (a : Addr) (d : Byte) : Word := busWord 1#1 0#1 a d

/-- The encoder, from R71, R74 and R78. -/
def encode : Instr → Word
  | .invalid top low => top ++ 1#1 ++ low
  | .rd a => readWord a
  | .wr a d => writeWord a d
  | .wrKey i d => 0xA#4 ++ BitVec.ofFin (w := 4) i ++ d
  | .wrDin i d => 0x12#5 ++ BitVec.ofFin (w := 3) i ++ d
  | .wrKeylen d => 0x83#8 ++ d
  | .wrDinlen d => 0x84#8 ++ d
  | .ckin d => 0x8A#8 ++ d
  | .cmdRsvd c => 0x80#8 ++ c
  | .nop => 0x8000
  | .enc => 0x8001
  | .dec => 0x8002
  | .ckclr => 0x8040
  | .clrerr => 0x80C0
  | .srst => 0x80C1

/-! ### The opcode table -/

/-- A row of opcode_table.json (30_encoding.md R77). -/
structure Row where
  mnemonic : Mnemonic
  pattern : Word
  mask : Word
deriving DecidableEq, Repr

/-- "A word matches a row when `(word and mask) = match`" (R77). -/
def Row.hits (r : Row) (w : Word) : Bool := w &&& r.mask == r.pattern

/-- How many 1-bits the row's mask has (R77). -/
def Row.weight (r : Row) : Nat := ((List.range 16).filter r.mask.getLsbD).length

/-- The table's rows, in its order. -/
def opcodeTable : List Row :=
  [⟨.INVALID, 0x4000, 0x4000⟩, ⟨.RD, 0x0000, 0xC000⟩, ⟨.WR, 0x8000, 0xC000⟩,
   ⟨.WR_KEY, 0xA000, 0xF000⟩, ⟨.WR_DIN, 0x9000, 0xF800⟩, ⟨.WR_KEYLEN, 0x8300, 0xFF00⟩,
   ⟨.WR_DINLEN, 0x8400, 0xFF00⟩, ⟨.CKIN, 0x8A00, 0xFF00⟩] ++
  [⟨.CMD_RSVD, 0x8000, 0xFF00⟩, ⟨.NOP, 0x8000, 0xFFFF⟩, ⟨.ENC, 0x8001, 0xFFFF⟩,
   ⟨.DEC, 0x8002, 0xFFFF⟩, ⟨.CKCLR, 0x8040, 0xFFFF⟩, ⟨.CLRERR, 0x80C0, 0xFFFF⟩,
   ⟨.SRST, 0x80C1, 0xFFFF⟩]

/-! ### The host's entry to the decoder -/

/-- What the decoder reads from a table row's word: bit 0 of `w` is bit 0 of the one 16-bit word that
every transaction is (30_encoding.md R70). A number that is no 16-bit word is refused. -/
def decodeTableWord (nbits w : Nat) : Option Instr :=
  if nbits ≤ 16 ∧ w < 65536 then some (decode (BitVec.ofNat 16 w)) else none

end Sys2Proof
end

