-- ==== Sys2Proof/Config.lean ====
section
/-! DEFINITION. The parameters of 00_scope.md R6 that a rule compares with, and the two that the spec
leaves OPEN, with the unstated encoding of the host's time bytes. The other parameters of R6 are widths: `DATA_WIDTH` and `ADDR_WIDTH` are `Byte` and `Addr`,
`SUM_WIDTH` is the width of `sum16`, `KEY_SIGNIFICANT_BYTES` is the length of `keyHead`, and
`KEY_EFFECTIVE_BITS` is the length of the table `PC1`. -/

namespace Sys2Proof.Config

/-- `BLOCK_BYTES` (R6). -/
def blockBytes : Nat := 8

/-- `KEY_MIN_BYTES` (R6). -/
def keyMinBytes : Nat := 8

/-- `KEY_MAX_BYTES` (R6). -/
def keyMaxBytes : Nat := 16

/-- `DES_LATENCY` (R6; 70_reset_and_hazards.md R234; D36): OPEN. No body, so nothing can lean on a
value of it, and no rule of the model reads it: completion is a turn of the engine, placed freely.
Log entry 5. -/
opaque desLatency : Nat

/-- `BASE_ADDRESS` (20_memory.md R58; 92_eei_decisions.md D35): OPEN, "the platform's mapping of the 64
register addresses". No body, and a value for each address, so that neither a base, nor an order, nor a
distance between two registers is assumed. Log entry 5. -/
opaque baseAddress : Addr → Nat

/-- How the time-sync bytes encode the year since 2000, month, day, hour, minute and second (positions 0
to 5): 43_checksum.md R165 says only "BCD-like", and the encoding is not stated (91_not_in_source.md
N13). No body. Log entry 16. -/
opaque timeByte (position value : Nat) : Byte

end Sys2Proof.Config
end

