-- ==== Sys2Proof/Machine/State.lean ====
section
/-! DEFINITION. The state of the block (10_state.md R20), the outside world that drives it, why a
step can stop, and the state right after reset. -/

namespace Sys2Proof.Machine

/-- The direction of a cipher operation: `dir` of 10_state.md R39. -/
inductive Dir where
  | enc | dec
deriving DecidableEq, Repr

/-- A latched operation `(dir, k64, b64)` (10_state.md R39). -/
structure Pending where
  dir : Dir
  k64 : BitVec 64
  b64 : BitVec 64
deriving DecidableEq, Repr

/-- Who moves in one step (40_bus_access.md R100; 70_reset_and_hazards.md R220): the host issues its
next transaction, the engine takes its completion step if it is enabled, or the platform asserts or
releases the reset input. DESIGN CHOICE, log entries 1 and 3. -/
inductive Turn where
  | host | engine | resetAssert | resetRelease
deriving DecidableEq, Repr

/-- The state: the eleven items of 10_state.md R20, under the spec's names, and four fields of the
outside world, which are the model's own (log entries 1 to 4). -/
structure State where
  key : Vector Byte 16
  keylen : Byte
  din : Vector Byte 8
  dinlen : Byte
  dout : Vector Byte 8
  done : Bool
  err : Bool
  errcode : Byte
  sum16 : BitVec 16
  xor8 : Byte
  pend : Option Pending
  /-- The host operations still to run, next first. -/
  program : List HostOp
  /-- Whose turn the coming steps are, next first. -/
  schedule : List Turn
  /-- Whether the platform is asserting the reset input. -/
  resetPin : Bool
  /-- The bytes that reads returned to the host, newest first. -/
  reads : List Byte
deriving DecidableEq, Repr

/-- Why a step of the machine can end in a fault: never. The block has no traps (60_exceptions.md
R190); its errors are recorded in `ERR` and `ERRCODE` and the machine goes on. -/
inductive Fault where
deriving DecidableEq, Repr

/-- Why a step can be refused. -/
inductive Refusal where
  /-- Raised by an arm of `exec` whose instruction has no meaning yet. Safe: nothing is claimed of it. -/
  | notModelled (mnemonic : String)
  /-- Raised by `step` and by the meaning of `INVALID` when the host's program contains a word with
  bit 14 set (40_bus_access.md R101): the whole program is refused, the word's position named (0 is
  the next operation). Safe: the spec gives such a program no meaning. -/
  | invalidWord (position : Nat) (word : Word)
deriving DecidableEq, Repr

/-- The state right after reset (70_reset_and_hazards.md R220), with no program placed, no turn
listed, the reset input released and nothing read yet (log entries 1 to 4). -/
def State.reset : State where
  key := Vector.replicate 16 0x00
  keylen := 0x00
  din := Vector.replicate 8 0x00
  dinlen := 0x00
  dout := Vector.replicate 8 0x00
  done := false
  err := false
  errcode := 0x00
  sum16 := 0x0000
  xor8 := 0x00
  pend := none
  program := []
  schedule := []
  resetPin := false
  reads := []

end Sys2Proof.Machine
end

