-- ==== Sys2Proof/Machine/Flags.lean ====
section
/-! DEFINITION. The flags of `STATUS`, each computed at the instant of the read (10_state.md R26, R41). -/

namespace Sys2Proof.Machine

/-- `BUSY`: 1 iff `PEND != None` (R26). -/
def busy (s : State) : Bool := s.pend.isSome

/-- `KEYOK`: 1 iff `8 <= KEYLEN <= 16` (R26). -/
def keyok (s : State) : Bool :=
  Config.keyMinBytes ≤ s.keylen.toNat && s.keylen.toNat ≤ Config.keyMaxBytes

/-- `BLKOK`: 1 iff `DINLEN = 8` (R26). -/
def blkok (s : State) : Bool := s.dinlen.toNat == Config.blockBytes

/-- `STATUS` as read: `0b000 ‖ BLKOK ‖ KEYOK ‖ ERR ‖ DONE ‖ BUSY` (40_bus_access.md R91). -/
def status (s : State) : Byte :=
  0#3 ++ BitVec.ofBool (blkok s) ++ BitVec.ofBool (keyok s) ++ BitVec.ofBool s.err
    ++ BitVec.ofBool s.done ++ BitVec.ofBool (busy s)

end Sys2Proof.Machine
end

