-- ==== Sys2Proof/Machine/Operands.lean ====
section
/-! DEFINITION. The operand forms: the value a read of each address returns, and the byte order
between the byte files and the 64-bit operands of the cipher. -/

namespace Sys2Proof.Machine

/-- `BE(X)` of eight bytes: byte 0 most significant (00_scope.md R11). -/
def be8 (x : Vector Byte 8) : BitVec 64 :=
  x[0] ++ x[1] ++ x[2] ++ x[3] ++ x[4] ++ x[5] ++ x[6] ++ x[7]

/-- `Bytes8(v)`: byte `i` is `v[63-8i : 56-8i]` (R11). -/
def bytes8 (v : BitVec 64) : Vector Byte 8 :=
  Vector.ofFn fun i => v.extractLsb' (56 - 8 * i) 8

/-- `KEY[0..7]`, the bytes of the key that enter the cipher (41_cipher.md R111). -/
def keyHead (s : State) : Vector Byte 8 := Vector.ofFn fun i => s.key[i.val]

/-- `k64 = BE(KEY[0..7])` (R111). -/
def k64 (s : State) : BitVec 64 := be8 (keyHead s)

/-- `b64 = BE(DIN[0..7])` (R111). -/
def b64 (s : State) : BitVec 64 := be8 s.din

/-- `SUM16[7:0]` (10_state.md R30). -/
def sumLo (s : State) : Byte := s.sum16.extractLsb' 0 8

/-- `SUM16[15:8]` (R30). -/
def sumHi (s : State) : Byte := s.sum16.extractLsb' 8 8

/-- The frame checksum byte: `(0x100 - SUM16[7:0]) mod 0x100` (43_checksum.md R152; 90_conflicts.md C1). -/
def ckchk (s : State) : Byte := BitVec.ofNat 8 (0x100 - (sumLo s).toNat)

/-- The one's complement of the low sum byte: `0xFF - SUM16[7:0]` (43_checksum.md R153). -/
def ckcpl (s : State) : Byte := BitVec.ofNat 8 (0xFF - (sumLo s).toNat)

/-- The value a read of a register returns (40_bus_access.md R91). -/
def readReg (s : State) : Reg → Byte
  | .cmd => 0x00
  | .status => status s
  | .errcode => s.errcode
  | .keylen => s.keylen
  | .dinlen => s.dinlen
  | .sumLo => sumLo s
  | .sumHi => sumHi s
  | .ckxor => s.xor8
  | .ckchk => ckchk s
  | .ckcpl => ckcpl s
  | .ckIn => 0x00
  | .din i => s.din[i]
  | .dout i => s.dout[i]
  | .key _ => 0x00
  | .reserved _ => 0x00

/-- `ReadValue(A)` (40_bus_access.md R91). -/
def readValue (s : State) (a : Addr) : Byte := readReg s (Reg.ofAddr a)

/-- Where the platform's bus finds a register of the block: 20_memory.md R58 leaves it to the platform,
so the whole map of the 64 addresses is OPEN. That a register has one host address, a natural number,
is the model's choice (DESIGN CHOICE, log entry 5). No rule of the machine uses it. -/
def hostAddress (r : Reg) : Nat := Config.baseAddress r.addr

end Sys2Proof.Machine
end

