-- ==== Sys2Proof/Machine/Ops.lean ====
section
/-! DEFINITION. The named operations on the state that the meanings share. -/

namespace Sys2Proof.Machine

/-! ### Errors: taking one and clearing the record -/

/-- The causes of an error (60_exceptions.md R191). -/
inductive ErrorCause where
  | invalidKey | invalidBlock | illegalCommand | busy
deriving DecidableEq, Repr

/-- The code of a cause (R191). -/
def errorCode : ErrorCause → Byte
  | .invalidKey => 0x01
  | .invalidBlock => 0x02
  | .illegalCommand => 0x03
  | .busy => 0x04

/-- `raise Error(code)`: `ERR <- 1; ERRCODE <- code` and nothing else (00_scope.md R12;
60_exceptions.md R200). The host is not diverted; this is the block's whole exception entry. -/
def raiseError (e : ErrorCause) (s : State) : State :=
  { s with err := true, errcode := errorCode e }

/-- The return from an error: `ERR <- 0; ERRCODE <- 0x00` (60_exceptions.md R201; 44_control.md R180). -/
def clearError (s : State) : State := { s with err := false, errcode := 0x00 }

/-! ### Reset -/

/-- `ResetState()` (70_reset_and_hazards.md R220): every item of 10_state.md R20 takes its reset
value. The outside world is not the block's: its fields stay. -/
def resetState (s : State) : State :=
  { State.reset with
    program := s.program, schedule := s.schedule, resetPin := s.resetPin, reads := s.reads }

/-! ### Registers -/

/-- `KEY[i] <- D` (40_bus_access.md R98). -/
def setKey (i : Fin 16) (d : Byte) (s : State) : State := { s with key := s.key.set i d }

/-- `KEYLEN <- D` (R94). -/
def setKeylen (d : Byte) (s : State) : State := { s with keylen := d }

/-- `DIN[i] <- D` (R97). -/
def setDin (i : Fin 8) (d : Byte) (s : State) : State := { s with din := s.din.set i d }

/-- `DINLEN <- D` (R95). -/
def setDinlen (d : Byte) (s : State) : State := { s with dinlen := d }

/-- A read returns a byte to the host (R90); it writes nothing of the block. -/
def returnByte (v : Byte) (s : State) : State := { s with reads := v :: s.reads }

/-! ### The checksum unit -/

/-- `Absorb(b)` (43_checksum.md R151). -/
def absorb (b : Byte) (s : State) : State :=
  { s with sum16 := s.sum16 + b.setWidth 16, xor8 := s.xor8 ^^^ b }

/-- `SUM16 <- 0x0000; XOR8 <- 0x00` (43_checksum.md R154). -/
def clearChecksum (s : State) : State := { s with sum16 := 0x0000, xor8 := 0x00 }

/-! ### The cipher unit -/

/-- `DONE <- 0` (41_cipher.md R114). -/
def clearDone (s : State) : State := { s with done := false }

/-- `CheckOperands()` (41_cipher.md R113): the error it raises, the first that applies. -/
def checkOperands (s : State) : Option ErrorCause :=
  if !keyok s then some .invalidKey
  else if !blkok s then some .invalidBlock
  else none

/-- `Accept(dir)`: `PEND <- (dir, BE(KEY[0..7]), BE(DIN[0..7]))` (41_cipher.md R115). -/
def accept (d : Dir) (s : State) : State := { s with pend := some ⟨d, k64 s, b64 s⟩ }

/-- The command of R114 and R116: busy check, `DONE <- 0`, operand checks, acceptance. -/
def startCipher (d : Dir) (s : State) : State :=
  if busy s then raiseError .busy s
  else
    match checkOperands (clearDone s) with
    | some e => raiseError e (clearDone s)
    | none => accept d (clearDone s)

/-! ### The outside world -/

/-- The host's program goes on at its next operation. -/
def setProgram (p : List HostOp) (s : State) : State := { s with program := p }

/-- The turns that are left. -/
def setSchedule (l : List Turn) (s : State) : State := { s with schedule := l }

/-- The level of the reset input (70_reset_and_hazards.md R220). -/
def setResetPin (b : Bool) (s : State) : State := { s with resetPin := b }

end Sys2Proof.Machine
end

