-- ==== Sys2Proof/Machine/Bus.lean ====
section
/-! DEFINITION. The bus transactions: `INVALID`, `RD`, and the register writes (40_bus_access.md). -/

namespace Sys2Proof.Machine

/-- `INVALID` (R101): the program that contains the word is refused; its position is 0, the operation
being run. -/
def execInvalid (top : BitVec 1) (low : BitVec 14) (_s : State) : Host.Outcome State Fault Refusal :=
  .refused (.invalidWord 0 (encode (.invalid top low)))

/-- `RD A` (R90): return `ReadValue(A)`; no state of the block is written. -/
def execRd (a : Addr) (s : State) : Host.Outcome State Fault Refusal :=
  .next (returnByte (readValue s a) s)

/-- `WR A, D` to a read-only or reserved address (R99): no effect on any state and no error. -/
def execWr (_a : Addr) (_d : Byte) (s : State) : Host.Outcome State Fault Refusal := .next s

/-- `WR KEYi, D` (R98). -/
def execWrKey (i : Fin 16) (d : Byte) (s : State) : Host.Outcome State Fault Refusal :=
  .next (setKey i d s)

/-- `WR DINi, D` (R97). -/
def execWrDin (i : Fin 8) (d : Byte) (s : State) : Host.Outcome State Fault Refusal :=
  .next (setDin i d s)

/-- `WR KEYLEN, D` (R94): any value, no check. -/
def execWrKeylen (d : Byte) (s : State) : Host.Outcome State Fault Refusal := .next (setKeylen d s)

/-- `WR DINLEN, D` (R95): any value, no check. -/
def execWrDinlen (d : Byte) (s : State) : Host.Outcome State Fault Refusal := .next (setDinlen d s)

end Sys2Proof.Machine
end

