-- ==== Sys2Proof/Machine/Checksum.lean ====
section
/-! DEFINITION. The checksum unit: `CKIN` and `CKCLR` (43_checksum.md R151, R154). -/

namespace Sys2Proof.Machine

/-- `CKIN b` (R151; 40_bus_access.md R96): absorb one byte, at any time. -/
def execCkin (b : Byte) (s : State) : Host.Outcome State Fault Refusal := .next (absorb b s)

/-- `CKCLR` (R154): clear the unit, at any time. -/
def execCkclr (s : State) : Host.Outcome State Fault Refusal := .next (clearChecksum s)

end Sys2Proof.Machine
end

