-- ==== Sys2Proof/Machine/Des.lean ====
section
/-! DEFINITION. The DES function on 64-bit numbers (41_cipher.md R118 to R121). -/

namespace Sys2Proof.Machine

/-- The `m`-bit number whose bit `i` (bit 0 least significant) is `f i`. -/
def bitsOf : (m : Nat) → (Nat → Bool) → BitVec m
  | 0, _ => 0#0
  | m + 1, f => BitVec.cons (f m) (bitsOf m f)

/-- `Permute(T, v, w)` (00_scope.md R10): FIPS bit `j` of the result is FIPS bit `T[j]` of `v`, where
FIPS bit `n` of a `w`-bit value is its bit `w - n`. So bit `i` of the result, FIPS bit `m - i`, is bit
`w - T[m - i]` of `v`; the vector counts from 0. -/
def permute {w m : Nat} (T : Vector Nat m) (v : BitVec w) : BitVec m :=
  bitsOf m fun i => v.getLsbD (w - T[m - 1 - i]?.getD 0)

/-- `rotl28(x, n)` (R120). -/
def rotl28 (x : BitVec 28) (n : Nat) : BitVec 28 := (x <<< n) ||| (x >>> (28 - n))

/-- The rounds of the key schedule from `C` and `D` on (R120): rotate both, choose by `PC2`. -/
def subkeys : BitVec 28 → BitVec 28 → List Nat → List (BitVec 48)
  | _, _, [] => []
  | c, d, n :: shifts =>
    permute pc2Table (rotl28 c n ++ rotl28 d n) :: subkeys (rotl28 c n) (rotl28 d n) shifts

/-- `KeySchedule(k64)`: `K[1]` to `K[16]` (R120). -/
def keySchedule (k : BitVec 64) : List (BitVec 48) :=
  let cd : BitVec 56 := permute pc1Table k
  subkeys (cd.extractLsb' 28 28) (cd.extractLsb' 0 28) shiftsTable

/-- `S_j[row][col]` of six bits `B`: `row = 2 * B[5] + B[0]`, `col = B[4:1]` (R121). -/
def substitute (S : SBox) (b : BitVec 6) : BitVec 4 :=
  let row : BitVec 2 := b.extractLsb' 5 1 ++ b.extractLsb' 0 1
  let col : BitVec 4 := b.extractLsb' 1 4
  BitVec.ofNat 4 ((S[row.toNat]'row.isLt)[col.toNat]'col.isLt)

/-- The eight substitutions of a round: `B_1` is the most significant six bits (R121). -/
def substituteAll (x : BitVec 48) : BitVec 32 :=
  substitute s1 (x.extractLsb' 42 6) ++ substitute s2 (x.extractLsb' 36 6) ++
  substitute s3 (x.extractLsb' 30 6) ++ substitute s4 (x.extractLsb' 24 6) ++
  substitute s5 (x.extractLsb' 18 6) ++ substitute s6 (x.extractLsb' 12 6) ++
  substitute s7 (x.extractLsb' 6 6) ++ substitute s8 (x.extractLsb' 0 6)

/-- The round function `f(R, K)` (R121). -/
def feistel (r : BitVec 32) (k : BitVec 48) : BitVec 32 :=
  permute pTable (substituteAll (permute eTable r ^^^ k))

/-- The rounds from `(L, R)` on, one for each subkey: `L <- R`, `R <- L xor f(R, K)` (R118). -/
def rounds : List (BitVec 48) → BitVec 32 × BitVec 32 → BitVec 32 × BitVec 32
  | [], lr => lr
  | k :: ks, (l, r) => rounds ks (r, l ^^^ feistel r k)

/-- The data path of R118 under a list of subkeys: `IP`, the rounds, the halves swapped, `FP`. -/
def desWith (ks : List (BitVec 48)) (v : BitVec 64) : BitVec 64 :=
  let t : BitVec 64 := permute ipTable v
  let lr := rounds ks (t.extractLsb' 32 32, t.extractLsb' 0 32)
  permute fpTable (lr.2 ++ lr.1)

/-- `DES_Enc(k64, p64)` (R118). -/
def desEnc (k p : BitVec 64) : BitVec 64 := desWith (keySchedule k) p

/-- `DES_Dec(k64, c64)`: the subkeys in reverse order (R119). -/
def desDec (k c : BitVec 64) : BitVec 64 := desWith (keySchedule k).reverse c

end Sys2Proof.Machine
end

