-- ==== Sys2Proof/Machine/Cipher.lean ====
section
/-! DEFINITION. The cipher unit: the commands `ENC` and `DEC` and the engine's completion step
(41_cipher.md R113 to R117). -/

namespace Sys2Proof.Machine

/-- `ENC` (R114). -/
def execEnc (s : State) : Host.Outcome State Fault Refusal := .next (startCipher .enc s)

/-- `DEC` (R116). -/
def execDec (s : State) : Host.Outcome State Fault Refusal := .next (startCipher .dec s)

/-- The 64-bit result of a latched operation (R117). -/
def Pending.result (p : Pending) : BitVec 64 :=
  match p.dir with
  | .enc => desEnc p.k64 p.b64
  | .dec => desDec p.k64 p.b64

/-- The engine's completion step (R117), atomic: `DOUT`, `DONE` and `PEND`. Where nothing is pending
the step is not enabled and nothing happens. -/
def complete (s : State) : State :=
  match s.pend with
  | some p => { s with dout := bytes8 p.result, done := true, pend := none }
  | none => s

end Sys2Proof.Machine
end

