-- ==== Sys2Proof/Machine/Control.lean ====
section
/-! DEFINITION. The control commands (44_control.md R180 to R183). -/

namespace Sys2Proof.Machine

/-- `NOP` (R182). -/
def execNop (s : State) : Host.Outcome State Fault Refusal := .next s

/-- `CLRERR` (R180). -/
def execClrerr (s : State) : Host.Outcome State Fault Refusal := .next (clearError s)

/-- `SRST` (R181): `ResetState()`, in any state; a pending operation is abandoned. -/
def execSrst (s : State) : Host.Outcome State Fault Refusal := .next (resetState s)

/-- `CMD_RSVD` (R183): `raise Error(0x03)`, whether or not an operation is pending. -/
def execCmdRsvd (_c : Byte) (s : State) : Host.Outcome State Fault Refusal :=
  .next (raiseError .illegalCommand s)

end Sys2Proof.Machine
end

