-- ==== Sys2Proof/Machine/Dispatch.lean ====
section
/-! DEFINITION. One arm per row of opcode_table.json. -/

namespace Sys2Proof.Machine

def exec (i : Instr) (s : State) : Host.Outcome State Fault Refusal :=
  match i with
  | .invalid top low => Sys2Proof.Machine.execInvalid top low s
  | .rd a => Sys2Proof.Machine.execRd a s
  | .wr a d => Sys2Proof.Machine.execWr a d s
  | .wrKey k d => Sys2Proof.Machine.execWrKey k d s
  | .wrDin k d => Sys2Proof.Machine.execWrDin k d s
  | .wrKeylen d => Sys2Proof.Machine.execWrKeylen d s
  | .wrDinlen d => Sys2Proof.Machine.execWrDinlen d s
  | .ckin d => Sys2Proof.Machine.execCkin d s
  | .cmdRsvd c => Sys2Proof.Machine.execCmdRsvd c s
  | .nop => Sys2Proof.Machine.execNop s
  | .enc => Sys2Proof.Machine.execEnc s
  | .dec => Sys2Proof.Machine.execDec s
  | .ckclr => Sys2Proof.Machine.execCkclr s
  | .clrerr => Sys2Proof.Machine.execClrerr s
  | .srst => Sys2Proof.Machine.execSrst s

end Sys2Proof.Machine
end

