-- ==== Sys2Proof/Machine/Agents.lean ====
section
/-! DEFINITION. What each agent does in its turn: the host, the engine, and the platform that drives
the reset input (00_scope.md R7; 40_bus_access.md R100; 70_reset_and_hazards.md R220). -/

namespace Sys2Proof.Machine

/-- The place and the word of the first `INVALID` word of a program, counting from `n`
(40_bus_access.md R101). -/
def invalidFrom (n : Nat) : List HostOp → Option (Nat × Word)
  | [] => none
  | .txn w :: p => if w.getLsbD 14 then some (n, w) else invalidFrom (n + 1) p
  | .poll :: p => invalidFrom (n + 1) p

/-- One transaction of the host's `POLL` loop: `RD STATUS`, and the loop goes on until bit 0 (`BUSY`)
of the value read is 0 (30_encoding.md R80). `rest` is the program after the loop. -/
def pollTurn (rest : List HostOp) (s : State) : State :=
  let v := readValue s Reg.status.addr
  if v.getLsbD 0 then returnByte v s else setProgram rest (returnByte v s)

/-- The host's turn: its next whole transaction (R100). While the reset input is asserted no host
transaction takes effect (R220): a transaction is lost, and a loop that has read no value goes on. A
host with nothing to issue leaves the block waiting (R222). -/
def hostTurn (s : State) : Host.Outcome State Fault Refusal :=
  match s.program with
  | [] => .next s
  | .txn w :: rest =>
    if s.resetPin then .next (setProgram rest s) else exec (decode w) (setProgram rest s)
  | .poll :: rest => if s.resetPin then .next s else .next (pollTurn rest s)

/-- One agent's turn. -/
def takeTurn (t : Turn) (s : State) : Host.Outcome State Fault Refusal :=
  match t with
  | .host => hostTurn s
  | .engine => .next (complete s)
  | .resetAssert => .next (setResetPin true (resetState s))
  | .resetRelease => .next (setResetPin false s)

/-- Whose turn it is when the schedule lists none: the engine's while an operation is pending, so
that it is completed (70_reset_and_hazards.md R234, weak fairness), else the host's. DESIGN CHOICE,
log entry 1. -/
def defaultTurn (s : State) : Turn := if busy s then .engine else .host

/-- The turn to take, and the state with the turn used up. -/
def nextTurn (s : State) : Host.Outcome State Fault Refusal :=
  match s.schedule with
  | t :: rest => takeTurn t (setSchedule rest s)
  | [] => takeTurn (defaultTurn s) s

/-- The state in which the next step is the host's, and runs the one transaction `w`: the host's
program is that word, and it is the host's turn with the reset input released. -/
def placeWord (w : Word) (s : State) : State :=
  setResetPin false (setSchedule [.host] (setProgram [.txn w] s))

end Sys2Proof.Machine
end

