-- ==== Sys2Proof/Machine/Step.lean ====
section
/-! DEFINITION. One step of the model: a whole host transaction, a whole completion step or a change
of the reset input (20_memory.md R60; 40_bus_access.md R100). -/

namespace Sys2Proof.Machine

/-- One step. A program that contains an `INVALID` word is refused as a whole, before any of it runs,
with the word's position named (R101, I1); else the agent whose turn it is moves. -/
def step (s : State) : Host.Outcome State Fault Refusal :=
  match invalidFrom 0 s.program with
  | some (n, w) => .refused (.invalidWord n w)
  | none => nextTurn s

/-- The host is given the one-word program `w` and the next turn (log entry 2): the very next step
runs that word. -/
def State.withFetchWord (s : State) (_nbits w : Nat) : State := placeWord (BitVec.ofNat 16 w) s

end Sys2Proof.Machine
end

