-- ==== Sys2Proof/Machine/Assembler.lean ====
section
/-! DEFINITION. The assembler's lines (30_encoding.md R79), what each expands to (R80), and their text. -/

namespace Sys2Proof

/-- The transactions of a line (R79, R80), as host operations. `LDKEY k0 ... k(n-1)` writes `KEY0` to
`KEY(n-1)`, then `KEYLEN = n`; `LDBLK` writes `DIN0` to `DIN7`, then `DINLEN = 8`. -/
def AsmLine.expand : AsmLine → List HostOp
  | .rd r => [.txn (readWord r.addr)]
  | .wr r d => [.txn (writeWord r.addr d)]
  | .nop => [.txn (writeWord Reg.cmd.addr 0x00)]
  | .enc => [.txn (writeWord Reg.cmd.addr 0x01)]
  | .dec => [.txn (writeWord Reg.cmd.addr 0x02)]
  | .ckclr => [.txn (writeWord Reg.cmd.addr 0x40)]
  | .clrerr => [.txn (writeWord Reg.cmd.addr 0xC0)]
  | .srst => [.txn (writeWord Reg.cmd.addr 0xC1)]
  | .ckin b => [.txn (writeWord Reg.ckIn.addr b)]
  | .ldkey ks =>
    ks.zipIdx.map (fun ki => .txn (writeWord (BitVec.ofNat 6 (0x20 + ki.2)) ki.1)) ++
      [.txn (writeWord Reg.keylen.addr (BitVec.ofNat 8 ks.length))]
  | .ldblk bs =>
    bs.toList.zipIdx.map (fun bi => .txn (writeWord (BitVec.ofNat 6 (0x10 + bi.2)) bi.1)) ++
      [.txn (writeWord Reg.dinlen.addr 0x08)]
  | .rdblk => (List.range 8).map fun i => .txn (readWord (BitVec.ofNat 6 (0x18 + i)))
  | .poll => [.poll]

/-- A host program from its lines. -/
def assemble (lines : List AsmLine) : List HostOp := lines.flatMap AsmLine.expand

/-- An address as the assembler writes it: `0x00` to `0x3F` (R79). -/
def addressText (a : Addr) : String :=
  "0x" ++ String.ofList [(Nat.digitChar (a.toNat / 16)).toUpper, (Nat.digitChar (a.toNat % 16)).toUpper]

/-- A register's name in the assembler (R79): its name in the address map, or its address where it
has none. -/
def Reg.name : Reg → String
  | .cmd => "CMD"
  | .status => "STATUS"
  | .errcode => "ERRCODE"
  | .keylen => "KEYLEN"
  | .dinlen => "DINLEN"
  | .sumLo => "SUM_LO"
  | .sumHi => "SUM_HI"
  | .ckxor => "CKXOR"
  | .ckchk => "CKCHK"
  | .ckcpl => "CKCPL"
  | .ckIn => "CK_IN"
  | .din i => "DIN" ++ toString i.val
  | .dout i => "DOUT" ++ toString i.val
  | .key i => "KEY" ++ toString i.val
  | .reserved a => addressText a

/-- Bytes as the assembler writes them, each after a space (R79: a number 0 to 255). -/
def bytesText (bs : List Byte) : String := bs.foldl (fun t b => t ++ " " ++ toString b.toNat) ""

/-- A line's text (R79, R80). -/
def AsmLine.text : AsmLine → String
  | .rd r => "RD " ++ r.name
  | .wr r d => "WR " ++ r.name ++ ", " ++ toString d.toNat
  | .nop => "NOP"
  | .enc => "ENC"
  | .dec => "DEC"
  | .ckclr => "CKCLR"
  | .clrerr => "CLRERR"
  | .srst => "SRST"
  | .ckin b => "CKIN " ++ toString b.toNat
  | .ldkey ks => "LDKEY" ++ bytesText ks
  | .ldblk bs => "LDBLK" ++ bytesText bs.toList
  | .rdblk => "RDBLK"
  | .poll => "POLL"

/-- A read's result in a trace: `RD <reg> -> <value>` (R79). -/
def readTrace (r : Reg) (v : Byte) : String := (AsmLine.rd r).text ++ " -> " ++ toString v.toNat

end Sys2Proof
end

