-- ==== Sys2Proof/Machine/Frames.lean ====
section
/-! DEFINITION. Host-side usage of the two units (43_checksum.md R160 to R170): which bytes the host
absorbs and enciphers, as pure functions and host programs. The block enforces none of it (00_scope.md
R4 (d)). -/

namespace Sys2Proof.Frames

/-- The sum of a list of bytes, unbounded (R150's Σ). -/
def byteSum (bs : List Byte) : Nat := (bs.map BitVec.toNat).sum

/-- The XOR of a list of bytes (R156). -/
def byteXor (bs : List Byte) : Byte := bs.foldr (· ^^^ ·) 0x00

/-- A frame of the wire format: `A5 <len> <cmd> <hdr0..3> <r0> <r1> <payload...> <chk> 5A` (R160). -/
def frame (len cmd : Byte) (hdr : Vector Byte 4) (r0 r1 : Byte) (payload : List Byte) (chk : Byte) :
    List Byte :=
  [0xA5, len, cmd] ++ hdr.toList ++ [r0, r1] ++ payload ++ [chk, 0x5A]

/-- The 20 bytes of the handshake-open frame (R162): length 0x14, command 0x05, reserved bytes 0x00
0x01, and a payload of the type byte 0x07 (90_conflicts.md C3) and the cipher block. -/
def handshakeFrame (hdr : Vector Byte 4) (cipher : Vector Byte 8) (chk : Byte) : List Byte :=
  frame 0x14 0x05 hdr 0x00 0x01 (0x07 :: cipher.toList) chk

/-- The pre-cipher block `[sum_lo, sum_hi, seed[0], seed[1], seed[2], seed[3], 0, 0]` (R163;
90_conflicts.md C5, C7). -/
def handshakeBlock (sumLo sumHi : Byte) (seed : Vector Byte 8) : Vector Byte 8 :=
  #v[sumLo, sumHi, seed[0], seed[1], seed[2], seed[3], 0x00, 0x00]

/-- Step 1 of the handshake (R163): absorb the seed and every byte of the key, and read the sum. -/
def handshakeSumLines (seed : Vector Byte 8) (key : List Byte) : List AsmLine :=
  .ckclr :: (seed.toList ++ key).map .ckin ++ [.rd .sumLo, .rd .sumHi]

/-- Encipher one block under a key, poll, and read the result (R163; 30_encoding.md R80). -/
def encryptLines (key : List Byte) (block : Vector Byte 8) : List AsmLine :=
  [.ldkey key, .ldblk block, .enc, .poll, .rdblk]

/-- Decipher one block under a key, poll, and read the result (R166). -/
def decryptLines (key : List Byte) (block : Vector Byte 8) : List AsmLine :=
  [.ldkey key, .ldblk block, .dec, .poll, .rdblk]

/-- The host's procedure that generates the checksum byte of a frame (R169): `CKCLR`, absorb every
byte but the one at the checksum position `n - 2`, read `CKCHK`. -/
def checksumLines (f : List Byte) : List AsmLine :=
  .ckclr :: (f.eraseIdx (f.length - 2)).map .ckin ++ [.rd .ckchk]

/-- `F[n-2] <- c` (R169). -/
def patchChecksum (f : List Byte) (c : Byte) : List Byte := f.set (f.length - 2) c

/-- The host's procedure that checks a received frame (R170): `CKCLR`, absorb every byte, read
`SUM_LO`; the frame passes iff it is 0x00. -/
def checkLines (f : List Byte) : List AsmLine := .ckclr :: f.map .ckin ++ [.rd .sumLo]

/-- The body checksum and the body XOR byte of the communication-key negotiation (R164): `SUM_LO` and
`CKXOR` after the body's bytes; which bytes form the body is the host's (91_not_in_source.md N12). -/
def bodyLines (body : List Byte) : List AsmLine :=
  .ckclr :: body.map .ckin ++ [.rd .sumLo, .rd .ckxor]

/-- The body checksum of the negotiation frame, "plain sum, low byte" (R164). -/
def bodySum (body : List Byte) : Byte := BitVec.ofNat 8 (byteSum body)

/-- Where the body checksum and the body XOR byte stand among the bytes ahead of the cipher block, and
which other bytes stand there. R164 says only that the two are ahead of the block (91_not_in_source.md
N12), so the host gives the layout. -/
structure AheadLayout where
  before : List Byte
  between : List Byte
  after : List Byte
  xorFirst : Bool
deriving DecidableEq, Repr

/-- The bytes ahead of the cipher block: the body checksum `c`, the body XOR byte `x` and the layout's
other bytes (R164). -/
def aheadBytes (l : AheadLayout) (c x : Byte) : List Byte :=
  l.before ++ [if l.xorFirst then x else c] ++ l.between ++ [if l.xorFirst then c else x] ++ l.after

/-- The communication-key negotiation frame (R164): length marker 0x16, command byte 0x01, and the body
checksum and body XOR byte ahead of the 8-byte cipher block. The body, the reserved bytes and the
layout of the bytes ahead are the host's. -/
def negotiationFrame (l : AheadLayout) (hdr : Vector Byte 4) (r0 r1 : Byte) (body : List Byte)
    (cipher : Vector Byte 8) (chk : Byte) : List Byte :=
  frame 0x16 0x01 hdr r0 r1 (aheadBytes l (bodySum body) (byteXor body) ++ cipher.toList) chk

/-- The local time that a time-sync frame carries (R165). -/
structure SyncTime where
  yearSince2000 : Nat
  month : Nat
  day : Nat
  hour : Nat
  minute : Nat
  second : Nat
  weekday : Fin 7
deriving DecidableEq, Repr

/-- The seven time bytes, in R165's order: six BCD-like bytes, whose encoding is OPEN (log entry 16), and
the weekday as a single digit 0 to 6. -/
def timeBytes (t : SyncTime) : Vector Byte 7 :=
  #v[Config.timeByte 0 t.yearSince2000, Config.timeByte 1 t.month, Config.timeByte 2 t.day,
    Config.timeByte 3 t.hour, Config.timeByte 4 t.minute, Config.timeByte 5 t.second,
    BitVec.ofNat 8 t.weekday]

/-- The 8-byte block that holds seven bytes: which byte is added, and where, the rules do not state
(91_not_in_source.md N13), so the host gives both. That the seven keep their order around it is the
model's reading, log entry 16. -/
def timeBlock (pos : Fin 8) (pad : Byte) (bs : Vector Byte 7) : Vector Byte 8 :=
  Vector.ofFn fun i =>
    if _ : i.val < pos.val then bs[i.val]
    else if _ : i.val = pos.val then pad
    else bs[i.val - 1]

/-- The host's procedure that enciphers the time: the 8-byte session key in `KEY` with `KEYLEN = 8`, the
block of the time bytes in `DIN`, `ENC` (R165). -/
def timeSyncLines (session : Vector Byte 8) (pos : Fin 8) (pad : Byte) (t : SyncTime) : List AsmLine :=
  encryptLines session.toList (timeBlock pos pad (timeBytes t))

/-- A time-sync frame carries the enciphered block in its payload (R160, R165). R165 gives no length,
command or further payload byte, so they are the host's. -/
def timeSyncFrame (len cmd : Byte) (hdr : Vector Byte 4) (r0 r1 : Byte) (before : List Byte)
    (cipher : Vector Byte 8) (after : List Byte) (chk : Byte) : List Byte :=
  frame len cmd hdr r0 r1 (before ++ cipher.toList ++ after) chk

/-- The eight bytes from offset `n` of a list, or nothing where it is shorter. -/
def blockAt (n : Nat) (bs : List Byte) : Option (Vector Byte 8) :=
  if h : n + 8 ≤ bs.length then
    some (Vector.ofFn fun i => bs[n + i.val])
  else none

/-- The segment of an open-result frame that the host deciphers: bytes 10 to 17 (R166). -/
def openResultBlock (f : List Byte) : Option (Vector Byte 8) := blockAt 10 f

/-- The two blocks of the reassembled communication-key body, bytes 12 to 27; the second one's
plaintext is the session key (R167; 90_conflicts.md C2). -/
def commKeyBlocks (f : List Byte) : Option (Vector Byte 8 × Vector Byte 8) :=
  (blockAt 12 f).bind fun a => (blockAt 20 f).map fun b => (a, b)

/-- The host's procedure for the communication-key body: one `DEC` for each of its two blocks, under the
key the host loads (R167; 91_not_in_source.md N15). -/
def commKeyLines (key : List Byte) (blocks : Vector Byte 8 × Vector Byte 8) : List AsmLine :=
  decryptLines key blocks.1 ++ decryptLines key blocks.2

/-- The body of a time-sync acknowledgment: bytes 12 to 19 (R168). -/
def timeSyncBlock (f : List Byte) : Option (Vector Byte 8) := blockAt 12 f

/-- The host's procedure for an acknowledgment: the 8-byte session key with `KEYLEN = 8`, the block,
`DEC` (R168). -/
def timeSyncAckLines (session block : Vector Byte 8) : List AsmLine :=
  decryptLines session.toList block

/-- The acknowledgment succeeds iff the deciphered block is eight 0x00 bytes (R168). -/
def timeSyncAcknowledged (dout : Vector Byte 8) : Bool := dout.toList.all (· == 0x00)

end Sys2Proof.Frames
end

