-- ==== Sys2Proof/Safety.lean ====
section
/-! DEFINITION. What a safe run is, and the other terms the statements use. -/

namespace Sys2Proof.Machine

/-- The host's program spells only transactions (40_bus_access.md R101). -/
def ValidProgram (s : State) : Prop := invalidFrom 0 s.program = none

/-- The state after `n` steps, or the first stop. -/
def steps (n : Nat) (s : State) : Host.Outcome State Fault Refusal := Sys2Proof.core.run n s

/-- What every state of a run keeps: only the codes of 60_exceptions.md R191 occur; `ERR` is set
exactly when a code is recorded (R199); `DONE` is 0 while an operation is pending (41_cipher.md R114,
R117); and while the reset input is asserted the block stays as reset left it
(70_reset_and_hazards.md R220). -/
structure Legal (s : State) : Prop where
  code_legal : s.errcode.toNat ≤ 4
  err_iff_code : s.err = true ↔ s.errcode ≠ 0x00
  busy_not_done : s.pend ≠ none → s.done = false
  held_in_reset : s.resetPin = true → resetState s = s

/-- A state in which `ENC` and `DEC` are accepted (41_cipher.md R113, R114; 70_reset_and_hazards.md
R224): nothing pending, `KEYLEN` 8 to 16, `DINLEN = 8`. -/
structure Ready (s : State) : Prop where
  idle : s.pend = none
  key_min : 8 ≤ s.keylen.toNat
  key_max : s.keylen.toNat ≤ 16
  block : s.dinlen = 0x08

/-- Two states that differ at most in `KEY[8..15]` (41_cipher.md R123). -/
structure SameButHighKey (s t : State) : Prop where
  rest : t = { s with key := t.key }
  head : ∀ i : Fin 8, s.key[i.val] = t.key[i.val]

/-- The transactions of a list, one after the other, with no step of another agent between them. -/
def execAll : List Instr → State → Host.Outcome State Fault Refusal
  | [], s => .next s
  | i :: is, s =>
    match exec i s with
    | .next t => execAll is t
    | .fault r => .fault r
    | .refused r => .refused r

/-- The transactions of a host program, decoded; the host's own loops are left out. -/
def transactions : List HostOp → List Instr
  | [] => []
  | .txn w :: p => decode w :: transactions p
  | .poll :: p => transactions p

end Sys2Proof.Machine
end

