-- ==== Sys2Proof/Certificates/Slice0/Obligations.lean ====
section
/-! DEFINITION. The statements for the provers. Each docstring names the rule of spec/ it comes from. -/

open Sys2Proof Sys2Proof.Machine Sys2Proof.Frames

/-! ### Encoding -/

/-- 30_encoding.md, sections 2 to 5: decoding gives back every well-formed transaction, all operands. -/
def Obligations.DecodeEncodeRoundTrip : Prop :=
  ∀ i : Instr, i.wellFormed = true → decode (encode i) = i

/-- 30_encoding.md R72: bit 14 makes a word `INVALID` and refuses the program that holds it; else bit
15 tells a read, whose address is bits 13:8 and whose low byte is ignored, from a write, of which no
bit is dropped. -/
def Obligations.DecodeReadsTheFields : Prop :=
  ∀ w : Word,
    (w.getLsbD 14 = true → (decode w).mnemonic = .INVALID ∧ encode (decode w) = w ∧
      ∀ s : State, HostOp.txn w ∈ s.program → ∃ n v, step s = .refused (.invalidWord n v)) ∧
    (w.getLsbD 14 = false → w.getLsbD 15 = false → decode w = .rd (w.extractLsb' 8 6)) ∧
    (w.getLsbD 14 = false → w.getLsbD 15 = true →
      decode w = decodeWrite (w.extractLsb' 8 6) (w.extractLsb' 0 8) ∧
        (decode w).mnemonic ≠ .INVALID ∧ (decode w).mnemonic ≠ .RD ∧ (decode w).wellFormed = true ∧
        encode (decode w) = w)

/-- 30_encoding.md R77: the decoder's row is the one row that matches with the most mask bits, and the
words of the generic `WR` row are exactly the writes to read-only and reserved addresses. Two rows of
one weight share no word. -/
def Obligations.DecoderFollowsTablePrecedence : Prop :=
  ∀ w : Word,
    (∃ r ∈ opcodeTable, r.mnemonic = (decode w).mnemonic ∧ r.hits w = true ∧
      ∀ q ∈ opcodeTable, q.hits w = true → q = r ∨ q.weight < r.weight) ∧
    (∀ q ∈ opcodeTable, ∀ r ∈ opcodeTable, q.hits w = true → r.hits w = true →
      q.weight = r.weight → q = r) ∧
    ((decode w).mnemonic = .WR ↔
      w.getLsbD 15 = true ∧ w.getLsbD 14 = false ∧ writeIgnored (w.extractLsb' 8 6) = true)

/-- 30_encoding.md R78: the row of a write by the high byte of its word; reads and `INVALID` words. -/
def Obligations.OpcodeMapByHighByte : Prop :=
  ∀ h d : Byte,
    let m := (decode (h ++ d)).mnemonic
    (h.toNat ≤ 0x3F → m = .RD) ∧
    ((0x40 ≤ h.toNat ∧ h.toNat ≤ 0x7F) ∨ 0xC0 ≤ h.toNat → m = .INVALID) ∧
    (h = 0x80 → m = (if d = 0x00 then .NOP else if d = 0x01 then .ENC else if d = 0x02 then .DEC
      else if d = 0x40 then .CKCLR else if d = 0xC0 then .CLRERR else if d = 0xC1 then .SRST
      else .CMD_RSVD)) ∧
    (h = 0x81 ∨ h = 0x82 → m = .WR) ∧
    (h = 0x83 → m = .WR_KEYLEN) ∧
    (h = 0x84 → m = .WR_DINLEN) ∧
    (0x85 ≤ h.toNat ∧ h.toNat ≤ 0x89 → m = .WR) ∧
    (h = 0x8A → m = .CKIN) ∧
    (0x8B ≤ h.toNat ∧ h.toNat ≤ 0x8F → m = .WR) ∧
    (0x90 ≤ h.toNat ∧ h.toNat ≤ 0x97 → m = .WR_DIN) ∧
    (0x98 ≤ h.toNat ∧ h.toNat ≤ 0x9F → m = .WR) ∧
    (0xA0 ≤ h.toNat ∧ h.toNat ≤ 0xAF → m = .WR_KEY) ∧
    (0xB0 ≤ h.toNat ∧ h.toNat ≤ 0xBF → m = .WR)

/-- Sanity: words written out from R71, R74 and R78 decode to their transactions, one for each row. -/
def Obligations.WordsOfTheManualDecode : Prop :=
  decode 0x0900 = .rd 0x09 ∧ decode 0x9855 = .wr 0x18 0x55 ∧ decode 0xAF10 = .wrKey 15 0x10 ∧
  decode 0x97EF = .wrDin 7 0xEF ∧ decode 0x8310 = .wrKeylen 0x10 ∧ decode 0x8408 = .wrDinlen 0x08 ∧
  decode 0x8A5A = .ckin 0x5A ∧ decode 0x80FF = .cmdRsvd 0xFF ∧ decode 0x8000 = .nop ∧
  decode 0x8001 = .enc ∧ decode 0x8002 = .dec ∧ decode 0x8040 = .ckclr ∧ decode 0x80C0 = .clrerr ∧
  decode 0x80C1 = .srst ∧ decode 0x7FFF = .invalid 0#1 0x3FFF#14

/-- 30_encoding.md R80: what each pseudo-instruction expands to, and how the host's `POLL` loop goes. -/
def Obligations.PseudoInstructionExpansions : Prop :=
  AsmLine.nop.expand = [.txn 0x8000] ∧ AsmLine.enc.expand = [.txn 0x8001] ∧
  AsmLine.dec.expand = [.txn 0x8002] ∧ AsmLine.ckclr.expand = [.txn 0x8040] ∧
  AsmLine.clrerr.expand = [.txn 0x80C0] ∧ AsmLine.srst.expand = [.txn 0x80C1] ∧
  (∀ b : Byte, (AsmLine.ckin b).expand = [.txn (BitVec.ofNat 16 (0x8A00 + b.toNat))]) ∧
  (∀ ks : List Byte, ks.length ≤ 16 →
    (AsmLine.ldkey ks).expand.length = ks.length + 1 ∧
    (∀ i : Nat, (h : i < ks.length) → (AsmLine.ldkey ks).expand[i]? =
      some (.txn (BitVec.ofNat 16 (0xA000 + 0x100 * i + ks[i].toNat)))) ∧
    (AsmLine.ldkey ks).expand[ks.length]? = some (.txn (BitVec.ofNat 16 (0x8300 + ks.length)))) ∧
  (∀ bs : Vector Byte 8,
    (AsmLine.ldblk bs).expand.length = 9 ∧
    (∀ i : Fin 8, (AsmLine.ldblk bs).expand[i.val]? =
      some (.txn (BitVec.ofNat 16 (0x9000 + 0x100 * i + bs[i].toNat)))) ∧
    (AsmLine.ldblk bs).expand[8]? = some (.txn 0x8408)) ∧
  AsmLine.rdblk.expand = [.txn 0x1800, .txn 0x1900, .txn 0x1A00, .txn 0x1B00, .txn 0x1C00,
    .txn 0x1D00, .txn 0x1E00, .txn 0x1F00] ∧
  AsmLine.poll.expand = [.poll] ∧
  (∀ (s : State) (rest : List HostOp), s.program = .poll :: rest → s.resetPin = false →
    ∃ v : Byte, exec (decode 0x0100) s = .next { s with reads := v :: s.reads } ∧
      hostTurn s = .next { s with
        reads := v :: s.reads
        program := if v.getLsbD 0 then s.program else rest })

/-! ### Bus transactions -/

/-- 40_bus_access.md R90, R91: `RD` returns the value of the table for its address and writes no state
of the block; its word is `W = 0`, `Z = 0`, the address, and a byte that is ignored. -/
def Obligations.ReadReturnsTheTableValue : Prop :=
  ∀ (s : State) (a : Addr), (∀ d : Byte, decode (0#1 ++ 0#1 ++ a ++ d) = .rd a) ∧ ∃ v : Byte,
    exec (.rd a) s = .next { s with reads := v :: s.reads } ∧
    (a = 0x00 → v = 0x00) ∧
    (a = 0x01 → v.getLsbD 0 = s.pend.isSome ∧ v.getLsbD 1 = s.done ∧ v.getLsbD 2 = s.err ∧
      (v.getLsbD 3 = true ↔ 8 ≤ s.keylen.toNat ∧ s.keylen.toNat ≤ 16) ∧
      (v.getLsbD 4 = true ↔ s.dinlen.toNat = 8) ∧ v.toNat < 0x20) ∧
    (a = 0x02 → v = s.errcode) ∧
    (a = 0x03 → v = s.keylen) ∧
    (a = 0x04 → v = s.dinlen) ∧
    (a = 0x05 → v.toNat = s.sum16.toNat % 0x100) ∧
    (a = 0x06 → v.toNat = s.sum16.toNat / 0x100) ∧
    (a = 0x07 → v = s.xor8) ∧
    (a = 0x08 → v.toNat = (0x100 - s.sum16.toNat % 0x100) % 0x100) ∧
    (a = 0x09 → v.toNat = 0xFF - s.sum16.toNat % 0x100) ∧
    (a = 0x0A → v = 0x00) ∧
    (0x0B ≤ a.toNat ∧ a.toNat ≤ 0x0F → v = 0x00) ∧
    (∀ i : Fin 8, a.toNat = 0x10 + i → v = s.din[i]) ∧
    (∀ i : Fin 8, a.toNat = 0x18 + i → v = s.dout[i]) ∧
    (∀ i : Fin 16, a.toNat = 0x20 + i → v = 0x00) ∧
    (0x30 ≤ a.toNat → v = 0x00)

/-- 10_state.md section 5 and 60_exceptions.md section 5: no read depends on the key, so `KEY` cannot
be read back. -/
def Obligations.NoReadDependsOnTheKey : Prop :=
  ∀ (s : State) (key : Vector Byte 16) (a : Addr), ∃ v : Byte,
    exec (.rd a) s = .next { s with reads := v :: s.reads } ∧
    exec (.rd a) { s with key := key } = .next { s with key := key, reads := v :: s.reads }

/-- 40_bus_access.md R97, R98: a write to `DINi` or `KEYi` stores that byte, at any time, and nothing
else; the key byte reads back as 0x00. -/
def Obligations.ByteFileWritesStoreOneByte : Prop :=
  ∀ (s : State) (d : Byte),
    (∀ i : Fin 8, decode (BitVec.ofNat 16 (0x9000 + 0x100 * i + d.toNat)) = .wrDin i d ∧
      exec (.wrDin i d) s = .next { s with din := s.din.set i d }) ∧
    (∀ i : Fin 16, decode (BitVec.ofNat 16 (0xA000 + 0x100 * i + d.toNat)) = .wrKey i d ∧
      exec (.wrKey i d) s = .next { s with key := s.key.set i d } ∧
      exec (.rd (BitVec.ofNat 6 (0x20 + i))) { s with key := s.key.set i d } =
        .next { s with key := s.key.set i d, reads := 0x00 :: s.reads })

/-- 40_bus_access.md R94, R95: `KEYLEN` and `DINLEN` take any value, at any time, unchecked, read back
as written, and change nothing else. -/
def Obligations.LengthWritesStoreAnyValue : Prop :=
  ∀ (s : State) (d : Byte),
    exec (.wrKeylen d) s = .next { s with keylen := d } ∧
    exec (.rd 0x03) { s with keylen := d } = .next { s with keylen := d, reads := d :: s.reads } ∧
    exec (.wrDinlen d) s = .next { s with dinlen := d } ∧
    exec (.rd 0x04) { s with dinlen := d } = .next { s with dinlen := d, reads := d :: s.reads } ∧
    decode (0x83#8 ++ d) = .wrKeylen d ∧ decode (0x84#8 ++ d) = .wrDinlen d

/-- 40_bus_access.md R99: a write to a read-only or reserved address has no effect and no error. -/
def Obligations.ReadOnlyAndReservedWritesAreIgnored : Prop :=
  ∀ (s : State) (a : Addr) (d : Byte),
    a = 0x01 ∨ a = 0x02 ∨ (0x05 ≤ a.toNat ∧ a.toNat ≤ 0x09) ∨ (0x0B ≤ a.toNat ∧ a.toNat ≤ 0x0F) ∨
      (0x18 ≤ a.toNat ∧ a.toNat ≤ 0x1F) ∨ 0x30 ≤ a.toNat →
    decode (1#1 ++ 0#1 ++ a ++ d) = .wr a d ∧ exec (.wr a d) s = .next s

/-- 40_bus_access.md section 3: a program that contains an `INVALID` word is refused as a whole, the
word's position named, and the word has no meaning of its own. How the position is counted (operations
still to run, from 0, a `POLL` as one; 0 for the word's own meaning) is the model's choice, log entry 9. -/
def Obligations.InvalidWordRefusesTheProgram : Prop :=
  (∀ (s : State) (pre post : List HostOp) (w : Word), s.program = pre ++ .txn w :: post →
    (∀ v : Word, HostOp.txn v ∈ pre → v.getLsbD 14 = false) → w.getLsbD 14 = true →
    step s = .refused (.invalidWord pre.length w)) ∧
  (∀ (s : State) (top : BitVec 1) (low : BitVec 14),
    exec (.invalid top low) s = .refused (.invalidWord 0 (top ++ 1#1 ++ low)))

/-- 20_memory.md section 3: the writes the spec calls idempotent are so, and `CKIN` is not: a byte
absorbed twice is summed twice. -/
def Obligations.IdempotentWrites : Prop :=
  (∀ (i : Instr) (s t : State), i.mnemonic ∈ [.NOP, .CKCLR, .CLRERR, .SRST, .WR_KEYLEN, .WR_DINLEN,
      .WR_DIN, .WR_KEY, .WR] → exec i s = .next t → exec i t = .next t) ∧
  (∀ (b : Byte) (s : State), ∃ t u, exec (.ckin b) s = .next t ∧ exec (.ckin b) t = .next u ∧
    u = { s with sum16 := BitVec.ofNat 16 (s.sum16.toNat + 2 * b.toNat) })

/-! ### Commands, errors and reset -/

/-- 44_control.md R182: `NOP` leaves every state as it was. -/
def Obligations.NopChangesNothing : Prop :=
  decode 0x8000 = .nop ∧ ∀ s : State, exec .nop s = .next s

/-- 44_control.md R183, 30_encoding.md R75, 60_exceptions.md R194: every reserved code raises
`IllegalCommand` and does nothing else, pending operation or not, and nothing else raises it. -/
def Obligations.ReservedCodesRaiseIllegalCommand : Prop :=
  (∀ c : Byte, c ∉ [0x00, 0x01, 0x02, 0x40, 0xC0, 0xC1] → decode (0x80#8 ++ c) = .cmdRsvd c) ∧
  (∀ (c : Byte) (s : State), exec (.cmdRsvd c) s = .next { s with err := true, errcode := 0x03 }) ∧
  (∀ (i : Instr) (s t : State), exec i s = .next t → t.errcode = 0x03 → s.errcode ≠ 0x03 →
    i.mnemonic = .CMD_RSVD)

/-- 44_control.md R180: `CLRERR` clears `ERR` and `ERRCODE` and nothing else, in any state. -/
def Obligations.ClrerrClearsTheErrorRecord : Prop :=
  decode 0x80C0 = .clrerr ∧
  ∀ s : State, exec .clrerr s = .next { s with err := false, errcode := 0x00 }

/-- 60_exceptions.md R196, R192, R193, R195, R202; 41_cipher.md R113: one error per command, in the
order decode, busy, `KEYLEN`, `DINLEN`; what each leaves unchanged; and what raises none. -/
def Obligations.OneErrorPerCommandInOrder : Prop :=
  ∀ s : State,
    (∀ c : Byte, c ∉ [0x00, 0x01, 0x02, 0x40, 0xC0, 0xC1] →
      exec (decode (0x80#8 ++ c)) s = .next { s with err := true, errcode := 0x03 }) ∧
    (∀ i ∈ [Instr.enc, Instr.dec],
      (s.pend ≠ none → exec i s = .next { s with err := true, errcode := 0x04 }) ∧
      (s.pend = none → s.keylen.toNat < 8 ∨ 16 < s.keylen.toNat →
        exec i s = .next { s with done := false, err := true, errcode := 0x01 }) ∧
      (s.pend = none → 8 ≤ s.keylen.toNat → s.keylen.toNat ≤ 16 → s.dinlen ≠ 0x08 →
        exec i s = .next { s with done := false, err := true, errcode := 0x02 }) ∧
      (Ready s → ∃ t, exec i s = .next t ∧ t.err = s.err ∧ t.errcode = s.errcode)) ∧
    (∀ (i : Instr) (t : State), i.mnemonic ∉ [.ENC, .DEC, .CMD_RSVD] → exec i s = .next t →
      (t.err = s.err ∧ t.errcode = s.errcode) ∨ (t.err = false ∧ t.errcode = 0x00))

/-- 60_exceptions.md section 3: `ERR` stays set until `CLRERR` or `SRST`, whatever other transaction
runs or completes; `ERRCODE` changes only to a nonzero code with `ERR` set, by a command that raises, or
to 0x00 with `ERR` clear, by a clearing command. -/
def Obligations.ErrorsAreSticky : Prop :=
  (∀ (i : Instr) (s t : State), exec i s = .next t → s.err = true → i ≠ .clrerr → i ≠ .srst →
    t.err = true) ∧
  (∀ (i : Instr) (s t : State), exec i s = .next t → t.errcode ≠ s.errcode →
    (t.err = true ∧ t.errcode ≠ 0x00 ∧ i.mnemonic ∈ [.ENC, .DEC, .CMD_RSVD]) ∨
    (t.err = false ∧ t.errcode = 0x00 ∧ i.mnemonic ∈ [.CLRERR, .SRST])) ∧
  (∀ s : State, (complete s).err = s.err ∧ (complete s).errcode = s.errcode)

/-- 44_control.md R181; 70_reset_and_hazards.md R221: `SRST` gives every item its reset value, in any
state; all of `STATUS` reads 0, a pending operation is abandoned, by either reset, so that no completion
writes `DOUT`, and the next cipher command raises `InvalidKey`. -/
def Obligations.SoftResetGivesTheResetState : Prop :=
  decode 0x80C1 = .srst ∧
  ∀ s : State, ∃ t : State,
    t = { key := Vector.replicate 16 0x00, keylen := 0x00, din := Vector.replicate 8 0x00,
          dinlen := 0x00, dout := Vector.replicate 8 0x00, done := false, err := false,
          errcode := 0x00, sum16 := 0x0000, xor8 := 0x00, pend := none, program := s.program,
          schedule := s.schedule, resetPin := s.resetPin, reads := s.reads } ∧
    exec .srst s = .next t ∧
    exec (.rd 0x01) t = .next { t with reads := 0x00 :: t.reads } ∧
    takeTurn .engine t = .next t ∧
    (∀ u, takeTurn .resetAssert s = .next u → u.pend = none ∧ takeTurn .engine u = .next u) ∧
    exec .enc t = .next { t with err := true, errcode := 0x01 } ∧
    exec .dec t = .next { t with err := true, errcode := 0x01 }

/-- 70_reset_and_hazards.md R220: the reset input and `SRST` both give every item its reset value, in
one step, and while the input is asserted no host transaction takes effect: only the host's program
may have moved on. -/
def Obligations.BothResetsGiveTheResetState : Prop :=
  ∀ s : State,
    (∃ t, exec .srst s = .next t ∧ takeTurn .resetAssert s = .next { t with resetPin := true } ∧
      (∀ i : Fin 16, t.key[i] = 0x00) ∧ t.keylen = 0x00 ∧ (∀ i : Fin 8, t.din[i] = 0x00) ∧
      t.dinlen = 0x00 ∧ (∀ i : Fin 8, t.dout[i] = 0x00) ∧ t.done = false ∧ t.err = false ∧
      t.errcode = 0x00 ∧ t.sum16 = 0x0000 ∧ t.xor8 = 0x00 ∧ t.pend = none) ∧
    (s.resetPin = true → ∀ t, hostTurn s = .next t → t = { s with program := t.program })

/-- The model's choices about the reset input's level (log entry 3, beside 70_reset_and_hazards.md
section 1): a turn of the platform releases it; while it is asserted a transaction is lost and a `POLL`
loop goes on. -/
def Obligations.TransactionsAreLostInReset : Prop :=
  ∀ s : State,
    takeTurn .resetRelease s = .next { s with resetPin := false } ∧
    (s.resetPin = true → ∀ (w : Word) (rest : List HostOp),
      (s.program = .txn w :: rest → hostTurn s = .next { s with program := rest }) ∧
      (s.program = .poll :: rest → hostTurn s = .next s)) ∧
    ∀ l, ValidProgram s → s.schedule = .resetAssert :: l →
      step s = .next { resetState s with schedule := l, resetPin := true }

/-- 70_reset_and_hazards.md R223: what the host reads right after either reset. -/
def Obligations.ReadsRightAfterReset : Prop :=
  ∀ (s t : State) (a : Addr), exec .srst s = .next t ∨ takeTurn .resetAssert s = .next t ∨
      t = State.reset →
    exec (.rd a) t = .next { t with reads := (if a = 0x09 then 0xFF else 0x00) :: t.reads }

/-! ### The checksum unit -/

/-- 43_checksum.md R151; 40_bus_access.md R96: `CKIN b` adds `b` to `SUM16` modulo 2^16 and XORs it
into `XOR8`, in any state, and changes nothing else. -/
def Obligations.AbsorbAddsAndXors : Prop :=
  ∀ (s : State) (b : Byte),
    decode (0x8A#8 ++ b) = .ckin b ∧
    exec (.ckin b) s = .next { s with
      sum16 := BitVec.ofNat 16 ((s.sum16.toNat + b.toNat) % 2 ^ 16)
      xor8 := s.xor8 ^^^ b } ∧
    (b = 0x00 → exec (.ckin b) s = .next s)

/-- 43_checksum.md R154: `CKCLR` clears `SUM16` and `XOR8`, in any state, and changes nothing else. -/
def Obligations.CkclrClearsTheUnit : Prop :=
  decode 0x8040 = .ckclr ∧
  ∀ s : State, exec .ckclr s = .next { s with sum16 := 0x0000, xor8 := 0x00 }

/-- 10_state.md section 4: after `CKCLR` and a stream of absorbs the unit holds the sum modulo 2^16 and
the XOR of the stream, and nothing else has changed. -/
def Obligations.AbsorbedStreamIsSummed : Prop :=
  ∀ (bs : List Byte) (s : State),
    execAll (.ckclr :: bs.map .ckin) s = .next { s with
      sum16 := BitVec.ofNat 16 (byteSum bs)
      xor8 := byteXor bs }

/-- 43_checksum.md R152, R153: `CKCHK` is the two's complement of the low sum byte and zero exactly
when the absorbed bytes sum to 0 modulo 256; `CKCPL` is its one's complement. -/
def Obligations.ChecksumAndComplementBytes : Prop :=
  (∀ s : State, ∃ c p l : Byte,
    exec (.rd 0x05) s = .next { s with reads := l :: s.reads } ∧
    exec (.rd 0x08) s = .next { s with reads := c :: s.reads } ∧
    exec (.rd 0x09) s = .next { s with reads := p :: s.reads } ∧
    c = ~~~l + 1 ∧ (l.toNat + c.toNat) % 0x100 = 0x00 ∧
    p = ~~~l ∧ p = c - 1 ∧ (l.toNat + p.toNat) % 0x100 = 0xFF) ∧
  (∀ (bs : List Byte) (s t : State), execAll (.ckclr :: bs.map .ckin) s = .next t →
    ∃ c : Byte, exec (.rd 0x08) t = .next { t with reads := c :: t.reads } ∧
      c.toNat = (256 - byteSum bs % 256) % 256 ∧ (c = 0x00 ↔ byteSum bs % 256 = 0))

/-- 43_checksum.md R156: `XOR8` is the XOR of the absorbed bytes, 0x00 for the empty stream and for any
stream in which every byte value occurs an even number of times. -/
def Obligations.EvenStreamsCancelInXor : Prop :=
  ∀ (bs : List Byte) (s t : State), execAll (.ckclr :: bs.map .ckin) s = .next t →
    t.xor8 = bs.foldl (· ^^^ ·) 0x00 ∧
    (bs = [] → t.xor8 = 0x00) ∧
    ((∀ b : Byte, Even (bs.count b)) → t.xor8 = 0x00)

/-- 43_checksum.md R157: the order of absorption does not matter, and a placeholder 0x00 is the same as
none. -/
def Obligations.AbsorbOrderDoesNotMatter : Prop :=
  (∀ (bs cs : List Byte) (s : State), bs.Perm cs →
    execAll (bs.map .ckin) s = execAll (cs.map .ckin) s) ∧
  (∀ (bs cs : List Byte) (s : State),
    execAll ((bs ++ 0x00 :: cs).map .ckin) s = execAll ((bs ++ cs).map .ckin) s)

/-- 43_checksum.md R158: a stream followed by its `CKCHK` sums to 0 modulo 256, and absorbing `CKCHK`
as well makes `SUM_LO` and `CKCHK` read 0x00. -/
def Obligations.ChecksumByteCompletesTheSum : Prop :=
  ∀ (bs : List Byte) (s t : State), execAll (.ckclr :: bs.map .ckin) s = .next t →
    ∃ (c : Byte) (u : State), exec (.rd 0x08) t = .next { t with reads := c :: t.reads } ∧
      byteSum (bs ++ [c]) % 256 = 0 ∧ exec (.ckin c) t = .next u ∧
      exec (.rd 0x05) u = .next { u with reads := 0x00 :: u.reads } ∧
      exec (.rd 0x08) u = .next { u with reads := 0x00 :: u.reads }

/-- 43_checksum.md R169, R170: the host's procedure that patches a frame makes it sum to 0 modulo 256,
and the procedure that checks a frame reads 0x00 exactly when it does, from `SUM_LO` or from `CKCHK`;
the block raises no error. -/
def Obligations.FrameChecksumProcedures : Prop :=
  (∀ (f : List Byte) (s : State), 2 ≤ f.length → ∃ (t : State) (c : Byte),
    execAll (transactions (assemble (checksumLines f))) s = .next t ∧ t.reads = c :: s.reads ∧
    byteSum (patchChecksum f c) % 256 = 0) ∧
  (∀ (f : List Byte) (s : State), ∃ (t : State) (c : Byte),
    execAll (transactions (assemble (checkLines f))) s = .next t ∧ t.reads = c :: s.reads ∧
    (c = 0x00 ↔ byteSum f % 256 = 0) ∧
    (∃ k : Byte, exec (.rd 0x08) t = .next { t with reads := k :: t.reads } ∧
      (k = 0x00 ↔ byteSum f % 256 = 0)) ∧
    t.err = s.err ∧ t.errcode = s.errcode)

/-- 43_checksum.md R162: the handshake-open frame, byte by byte, and its checksum byte, `CKCHK` over the
frame without it, at the second-to-last place. -/
def Obligations.HandshakeFrameLayout : Prop :=
  ∀ (hdr : Vector Byte 4) (cipher : Vector Byte 8) (chk : Byte),
    handshakeFrame hdr cipher chk =
      ([0xA5, 0x14, 0x05, hdr[0], hdr[1], hdr[2], hdr[3], 0x00, 0x01, 0x07, cipher[0], cipher[1],
       cipher[2], cipher[3], cipher[4], cipher[5], cipher[6], cipher[7], chk, 0x5A] : List Byte) ∧
    (handshakeFrame hdr cipher chk).length = 20 ∧
    (∀ c : Byte, patchChecksum (handshakeFrame hdr cipher 0x00) c = handshakeFrame hdr cipher c) ∧
    ∀ s : State, ∃ (t : State) (c : Byte),
      execAll (transactions (assemble (checksumLines (handshakeFrame hdr cipher 0x00)))) s = .next t ∧
      t.reads = c :: s.reads ∧ byteSum (handshakeFrame hdr cipher c) % 256 = 0

/-- 43_checksum.md R159: the two units do not touch each other. -/
def Obligations.UnitsAreIndependent : Prop :=
  (∀ (i : Instr) (s t : State), exec i s = .next t → i.mnemonic ∉ [.CKIN, .CKCLR, .SRST] →
    t.sum16 = s.sum16 ∧ t.xor8 = s.xor8) ∧
  (∀ s : State, (complete s).sum16 = s.sum16 ∧ (complete s).xor8 = s.xor8) ∧
  (∀ (i : Instr) (s t : State) (x : BitVec 16) (y : Byte), i ∈ [Instr.enc, Instr.dec] →
    exec i s = .next t →
    exec i { s with sum16 := x, xor8 := y } = .next { t with sum16 := x, xor8 := y } ∧
    complete { s with sum16 := x, xor8 := y } = { complete s with sum16 := x, xor8 := y }) ∧
  (∀ (b : Byte) (s : State), s.pend ≠ none →
    (∃ t, exec (.ckin b) s = .next t ∧ t.pend = s.pend) ∧
    (∃ t, exec .ckclr s = .next t ∧ t.pend = s.pend))

/-! ### The cipher unit -/

/-- 41_cipher.md R115: acceptance latches direction, `BE(KEY[0..7])` and `BE(DIN[0..7])`; `BUSY` reads
1 from then on; and no later transaction but `SRST` changes the latched operation. -/
def Obligations.AcceptanceLatchesTheOperands : Prop :=
  (∀ s : State, Ready s →
    exec .enc s = .next { s with done := false, pend := some ⟨.enc, k64 s, b64 s⟩ } ∧
    exec .dec s = .next { s with done := false, pend := some ⟨.dec, k64 s, b64 s⟩ }) ∧
  (∀ (s : State) (p : Pending), s.pend = some p →
    (∃ v : Byte, exec (.rd 0x01) s = .next { s with reads := v :: s.reads } ∧ v.getLsbD 0 = true) ∧
    ∀ (i : Instr) (t : State), exec i s = .next t → i ≠ .srst → t.pend = some p)

/-- 41_cipher.md R111; 20_memory.md R51: byte `i` of `KEY` and `DIN` is bits `63-8i : 56-8i` of the
latched operands, FIPS bit `8i + j` of the block is bit `8 - j` of `DIN[i]`, and `DOUT[i]` is the same
byte of the result. -/
def Obligations.ByteOrderOfTheCipher : Prop :=
  ∀ (s : State) (d : Dir), Ready s → ∃ (t : State) (p : Pending),
    exec (match d with | .enc => .enc | .dec => .dec) s = .next t ∧ t.pend = some p ∧ p.dir = d ∧
    (∀ i : Fin 8, p.k64.extractLsb' (56 - 8 * i) 8 = s.key[i.val] ∧
      p.b64.extractLsb' (56 - 8 * i) 8 = s.din[i]) ∧
    (∀ (i : Fin 8) (j : Nat), 1 ≤ j → j ≤ 8 →
      p.b64.getLsbD (64 - (8 * i + j)) = s.din[i].getLsbD (8 - j) ∧
      p.k64.getLsbD (64 - (8 * i + j)) = s.key[i.val].getLsbD (8 - j)) ∧
    (∀ i : Fin 8, (complete t).dout[i] =
      (match d with | .enc => desEnc p.k64 p.b64 | .dec => desDec p.k64 p.b64).extractLsb'
        (56 - 8 * i) 8)

/-- 41_cipher.md section 2: the engine's completion step writes `DOUT`, `DONE` and `PEND` in one step and
nothing else, at any place the schedule gives it, and is not enabled while nothing is pending. -/
def Obligations.CompletionStep : Prop :=
  (∀ (s : State) (p : Pending), s.pend = some p →
    takeTurn .engine s = .next { s with
      dout := bytes8 (match p.dir with | .enc => desEnc p.k64 p.b64 | .dec => desDec p.k64 p.b64)
      done := true
      pend := none }) ∧
  (∀ s : State, s.pend = none → takeTurn .engine s = .next s) ∧
  (∀ (s : State) (l : List Turn), ValidProgram s → s.schedule = .engine :: l →
    step s = .next { complete s with schedule := l })

/-- 60_exceptions.md R197: a command and a completion at the same moment: both orders are runs of the
model. -/
def Obligations.BothOrdersOfCompletionAreRuns : Prop :=
  ∀ (s : State) (p : Pending), s.pend = some p → s.resetPin = false → Ready { s with pend := none } →
    s.program = [.txn 0x8001] →
    (s.schedule = [.engine, .host] → steps 2 s = .next { s with
      dout := bytes8 p.result, done := false, pend := some ⟨.enc, k64 s, b64 s⟩
      program := [], schedule := [] }) ∧
    (s.schedule = [.host, .engine] → steps 2 s = .next { s with
      dout := bytes8 p.result, done := true, pend := none, err := true, errcode := 0x04
      program := [], schedule := [] })

/-- 10_state.md section 5, R36's clause on `DOUT`: one step changes `DOUT` only by completing the
pending operation, or to zero by a reset. -/
def Obligations.DoutChangesOnlyByCompletionOrReset : Prop :=
  ∀ s t : State, step s = .next t → t.dout ≠ s.dout →
    (∃ p, s.pend = some p ∧ t.dout = bytes8 p.result ∧ t.done = true ∧ t.pend = none) ∨
    (t.dout = Vector.replicate 8 0x00 ∧ t.key = Vector.replicate 16 0x00 ∧ t.pend = none)

/-- 10_state.md R41: the complete list of the writers of each flag. -/
def Obligations.WritersOfTheFlags : Prop :=
  (∀ (i : Instr) (s t : State), exec i s = .next t →
    (t.pend.isSome ≠ s.pend.isSome → i.mnemonic ∈ [.ENC, .DEC, .SRST]) ∧
    (t.done ≠ s.done → i.mnemonic ∈ [.ENC, .DEC, .SRST]) ∧
    (t.err ≠ s.err → i.mnemonic ∈ [.ENC, .DEC, .CMD_RSVD, .CLRERR, .SRST]) ∧
    (keyok t ≠ keyok s → i.mnemonic ∈ [.WR_KEYLEN, .SRST]) ∧
    (blkok t ≠ blkok s → i.mnemonic ∈ [.WR_DINLEN, .SRST])) ∧
  (∀ s : State, (complete s).err = s.err ∧ keyok (complete s) = keyok s ∧
    blkok (complete s) = blkok s ∧ (s.pend ≠ none → (complete s).done = true ∧
      (complete s).pend = none))

/-- 70_reset_and_hazards.md section 3: after a polled cipher command, `DONE` tells whether it was
accepted; if so `DOUT` holds its result, else `DOUT` is the previous one and `ERRCODE` says why. -/
def Obligations.DoneTellsTheOutcome : Prop :=
  ∀ (s : State) (d : Dir), s.pend = none → ∃ t : State,
    exec (match d with | .enc => .enc | .dec => .dec) s = .next t ∧
    (complete t).pend = none ∧
    ((complete t).done = true ↔ Ready s) ∧
    ((complete t).done = true → (complete t).dout =
      bytes8 (match d with | .enc => desEnc (k64 s) (b64 s) | .dec => desDec (k64 s) (b64 s))) ∧
    ((complete t).done = false → (complete t).dout = s.dout ∧
      ((complete t).errcode = 0x01 ∨ (complete t).errcode = 0x02))

/-- 41_cipher.md R126: `DEC` of the result of `ENC` under the same key gives the block back, and `ENC`
undoes `DEC`. -/
def Obligations.EncryptionRoundTrip : Prop :=
  ∀ s : State, Ready s →
    (∃ t u, exec .enc s = .next t ∧ exec .dec { complete t with din := (complete t).dout } = .next u ∧
      (complete u).dout = s.din) ∧
    (∃ t u, exec .dec s = .next t ∧ exec .enc { complete t with din := (complete t).dout } = .next u ∧
      (complete u).dout = s.din)

/-- 41_cipher.md R123, R127: the result is a function of `KEY[0..7]` and `DIN`: `KEYLEN` and `KEY[8..15]`
do not change it, nor does anything else in the state. -/
def Obligations.ResultDependsOnKeyHeadAndBlock : Prop :=
  ∀ s t : State, Ready s → Ready t → (∀ i : Fin 8, s.key[i.val] = t.key[i.val]) → s.din = t.din →
    ∀ i ∈ [Instr.enc, Instr.dec], ∃ s' t', exec i s = .next s' ∧ exec i t = .next t' ∧
      (complete s').dout = (complete t').dout

/-- 41_cipher.md section 4: `KEY[8..15]` are never observed: two states that differ only there stay so,
step by step, with the same reads and the same refusals. -/
def Obligations.HighKeyBytesAreNeverObserved : Prop :=
  ∀ s t : State, SameButHighKey s t →
    (∀ s', step s = .next s' → ∃ t', step t = .next t' ∧ SameButHighKey s' t' ∧ t'.reads = s'.reads) ∧
    (∀ r, step s = .refused r → step t = .refused r)

/-! ### The DES function -/

/-- 41_cipher.md R118: `DES_Enc` by the sequences `L_i`, `R_i` of the rule. -/
def Obligations.DesEncFollowsTheRounds : Prop :=
  ∀ (k p : BitVec 64) (L R : Nat → BitVec 32),
    L 0 = (permute ipTable p).extractLsb' 32 32 → R 0 = (permute ipTable p).extractLsb' 0 32 →
    (∀ i : Nat, i < 16 → L (i + 1) = R i ∧
      R (i + 1) = L i ^^^ feistel (R i) ((keySchedule k).getD i 0)) →
    (keySchedule k).length = 16 ∧ desEnc k p = permute fpTable (R 16 ++ L 16)

/-- 41_cipher.md R119: `DES_Dec` is `DES_Enc` with the subkeys in reverse order, and undoes it. -/
def Obligations.DesDecReversesTheSubkeys : Prop :=
  (∀ (k c : BitVec 64) (L R : Nat → BitVec 32),
    L 0 = (permute ipTable c).extractLsb' 32 32 → R 0 = (permute ipTable c).extractLsb' 0 32 →
    (∀ i : Nat, i < 16 → L (i + 1) = R i ∧
      R (i + 1) = L i ^^^ feistel (R i) ((keySchedule k).getD (15 - i) 0)) →
    desDec k c = permute fpTable (R 16 ++ L 16)) ∧
  (∀ k p : BitVec 64, desDec k (desEnc k p) = p)

/-- 41_cipher.md R120; 42_des_tables.md R144: the key schedule by the sequences `C_i`, `D_i` of the
rule; after 16 rounds both are back where they began. -/
def Obligations.KeyScheduleFollowsTheRotations : Prop :=
  (∀ (x : BitVec 28) (n : Nat), n ≤ 28 →
    (rotl28 x n).toNat = ((x.toNat <<< n) ||| (x.toNat >>> (28 - n))) % 2 ^ 28) ∧
  (∀ t ∈ pc1Table.toList, t % 8 ≠ 0) ∧
  (∀ (k : BitVec 64) (C D : Nat → BitVec 28),
    C 0 = (permute pc1Table k).extractLsb' 28 28 → D 0 = (permute pc1Table k).extractLsb' 0 28 →
    (∀ i : Nat, i < 16 →
      C (i + 1) = rotl28 (C i) ([1, 1, 2, 2, 2, 2, 2, 2, 1, 2, 2, 2, 2, 2, 2, 1].getD i 0) ∧
      D (i + 1) = rotl28 (D i) ([1, 1, 2, 2, 2, 2, 2, 2, 1, 2, 2, 2, 2, 2, 2, 1].getD i 0)) →
    (∀ i : Nat, i < 16 →
      (keySchedule k).getD i 0 = permute pc2Table (C (i + 1) ++ D (i + 1))) ∧
    C 16 = C 0 ∧ D 16 = D 0)

/-- 41_cipher.md R121: the round function, S-box by S-box: `B_j`, its row, its column, and `Y_j`. -/
def Obligations.RoundFunctionBySBoxes : Prop :=
  ∀ (r : BitVec 32) (k : BitVec 48), ∃ y : BitVec 32,
    feistel r k = permute pTable y ∧
    ∀ (j : Nat) (S : SBox), [s1, s2, s3, s4, s5, s6, s7, s8][j]? = some S →
      let b : BitVec 6 := (permute eTable r ^^^ k).extractLsb' (42 - 6 * j) 6
      let row := 2 * (b.getLsbD 5).toNat + (b.getLsbD 0).toNat
      let col := (b.extractLsb' 1 4).toNat
      ∃ line, S.toList[row]? = some line ∧
        line.toList[col]? = some (y.extractLsb' (28 - 4 * j) 4).toNat

/-- 42_des_tables.md R131: `FP` undoes `IP`. -/
def Obligations.FinalPermutationUndoesInitial : Prop :=
  ∀ v : BitVec 64, permute fpTable (permute ipTable v) = v

/-- 41_cipher.md R124: the parity bits, bit 0 of each key byte, change no result. -/
def Obligations.KeyParityIsIgnored : Prop :=
  ∀ k l v : BitVec 64, (∀ i : Nat, i % 8 ≠ 0 → k.getLsbD i = l.getLsbD i) →
    desEnc k v = desEnc l v ∧ desDec k v = desDec l v

/-- 41_cipher.md R128: the complementation property. -/
def Obligations.DesComplementation : Prop :=
  ∀ k p : BitVec 64, desEnc (~~~k) (~~~p) = ~~~(desEnc k p)

/-- 41_cipher.md R125: every key with a legal `KEYLEN` is accepted without an error; under the weak key
of the rule `DES_Enc` is its own inverse. -/
def Obligations.WeakKeysAreAccepted : Prop :=
  (∀ s : State, Ready s → ∀ i ∈ [Instr.enc, Instr.dec], ∃ t, exec i s = .next t ∧
    t.pend.isSome = true ∧ t.err = s.err ∧ t.errcode = s.errcode) ∧
  (∀ p : BitVec 64, desEnc 0x0101010101010101 (desEnc 0x0101010101010101 p) = p)

/-! ### The whole machine -/

/-- 40_bus_access.md section 3: on the host's turn, a step runs the transaction its next word decodes
to, on the state with the word and the turn used up. Two clauses rest on the model's choices: that the
turn is the host's when no turn is listed and nothing is pending, on log entry 1 (the default turn);
that a placed word is run by the very next step, on log entry 2 (how a program is loaded). -/
def Obligations.StepRunsTheDecodedTransaction : Prop :=
  (∀ (s : State) (w : Word) (rest : List HostOp), ValidProgram s → s.program = .txn w :: rest →
    s.resetPin = false →
    (∀ l, s.schedule = .host :: l →
      step s = exec (decode w) { s with program := rest, schedule := l }) ∧
    (s.schedule = [] → s.pend = none → step s = exec (decode w) { s with program := rest })) ∧
  (∀ (s : State) (n w : Nat), step (s.withFetchWord n w) =
    exec (decode (BitVec.ofNat 16 w)) { s with program := [], schedule := [], resetPin := false })

/-- 70_reset_and_hazards.md section 1: a block with nothing pending, no program and no turn listed
waits. That such a step leaves the state as it is, is the model's choice (log entry 1). -/
def Obligations.IdleBlockWaits : Prop :=
  ∀ s : State, s.pend = none → s.program = [] → s.schedule = [] →
    step s = .next s ∧ (∃ v : Byte, exec (.rd 0x01) s = .next { s with reads := v :: s.reads } ∧
      v.getLsbD 0 = false)

/-- 60_exceptions.md section 1: a valid program never stops the machine, from any state, however many
steps are taken: no error is a trap. -/
def Obligations.ValidProgramsNeverStop : Prop :=
  ∀ (s : State) (n : Nat), ValidProgram s → ∃ t, steps n s = .next t ∧ ValidProgram t

/-- The invariant of `Legal`, kept by every step from every state that has it: 60_exceptions.md R191,
R199; 41_cipher.md R114, R117; 70_reset_and_hazards.md R220. -/
def Obligations.StepKeepsLegal : Prop :=
  ∀ s t : State, Legal s → step s = .next t → Legal t

/-- The state right after reset has the invariant. -/
def Obligations.ResetIsLegal : Prop :=
  Legal State.reset ∧ ∀ s t : State, exec .srst s = .next t → Legal t

/-- 70_reset_and_hazards.md section 4 (weak fairness): a pending operation is completed or abandoned
within one step more than the turns listed. The bound comes from the model's choice of the default turn
(log entry 1). -/
def Obligations.PendingOperationEnds : Prop :=
  ∀ s : State, ValidProgram s → ∃ n ≤ s.schedule.length + 1, ∃ t, steps n s = .next t ∧ t.pend = none

/-- 70_reset_and_hazards.md section 4: a `POLL` loop ends, with `BUSY = 0` read last, when the reset
input is not asserted. The bound comes from the model's choice of the default turn (log entry 1). -/
def Obligations.PollLoopEnds : Prop :=
  ∀ (s : State) (rest : List HostOp), ValidProgram s → s.program = .poll :: rest →
    s.resetPin = false → Turn.resetAssert ∉ s.schedule →
    ∃ n ≤ s.schedule.length + 2, ∃ (t : State) (v : Byte) (l : List Byte),
      steps n s = .next t ∧ t.program = rest ∧ t.pend = none ∧ t.reads = v :: l ∧ v.getLsbD 0 = false

/-- 30_encoding.md section 6: running `LDKEY` and `LDBLK` loads the key bytes with `KEYLEN`, and the
block with `DINLEN`, and changes nothing else. -/
def Obligations.LoadLinesLoadTheOperands : Prop :=
  (∀ (ks : List Byte) (s : State), ks.length ≤ 16 → ∃ t,
    execAll (transactions (AsmLine.ldkey ks).expand) s = .next t ∧
    t = { s with key := t.key, keylen := BitVec.ofNat 8 ks.length } ∧
    ∀ i : Fin 16, t.key[i] = ks.getD i s.key[i]) ∧
  (∀ (bs : Vector Byte 8) (s : State),
    execAll (transactions (AsmLine.ldblk bs).expand) s = .next { s with din := bs, dinlen := 0x08 })

/-- 43_checksum.md section 3, the negotiation frame: `CKCLR` and the absorbs of a body leave its checksum
byte in `SUM_LO` and its XOR byte in `CKXOR`; the frame has length marker 0x16 and command byte 0x01, and
carries the two bytes ahead of the 8-byte cipher block, whatever the layout, the header and the cipher
block are. The rest is the model's reading, log entry 15 (DEDUCED): R164 says only "similar construction",
and that 0xA5, the header, the two reserved bytes, the checksum's place and 0x5A are as in R160 to R162
and R169, with nothing after the cipher block, is inferred from it. That the frame is 22 bytes long with
one further byte ahead follows the spec's own inference, "`frame[1] = 0x16` is 22, two bytes more than the
handshake frame, consistent with the two extra bytes [derived: from rule R162]". -/
def Obligations.NegotiationFrameCarriesTheBodyBytes : Prop :=
  ∀ (body : List Byte) (s : State), ∃ (t : State) (c x : Byte),
    execAll (transactions (assemble (bodyLines body))) s = .next t ∧ t.reads = x :: c :: s.reads ∧
    c.toNat = byteSum body % 256 ∧ x = body.foldl (· ^^^ ·) 0x00 ∧
    ∀ (l : AheadLayout) (hdr : Vector Byte 4) (r0 r1 : Byte) (cipher : Vector Byte 8) (chk : Byte),
      let ahead := if l.xorFirst then l.before ++ x :: l.between ++ c :: l.after
        else l.before ++ c :: l.between ++ x :: l.after
      let f := negotiationFrame l hdr r0 r1 body cipher chk
      f = ([0xA5, 0x16, 0x01, hdr[0], hdr[1], hdr[2], hdr[3], r0, r1] : List Byte) ++ ahead ++
        [cipher[0], cipher[1], cipher[2], cipher[3], cipher[4], cipher[5], cipher[6], cipher[7]] ++
        [chk, 0x5A] ∧
      (∀ b : Byte, patchChecksum f b = negotiationFrame l hdr r0 r1 body cipher b) ∧
      (l.before.length + l.between.length + l.after.length = 1 → f.length = 0x16)

/-- 43_checksum.md section 3, the time-sync frame: the seven time bytes end with the weekday digit, 0 to
6, and with one byte at one place they are the block; the procedure loads the 8-byte session key with
`KEYLEN = 8` and the block, its `ENC` is accepted, and the completion leaves the block enciphered under
the session key; the frame carries the eight bytes in its payload. The encoding of the other six bytes
is uninterpreted, the added byte and its place are any; that the seven keep their order is the model's
choice, and the weekday byte and the frame around the block are inferred (log entry 16). -/
def Obligations.TimeSyncEnciphersUnderTheSessionKey : Prop :=
  ∀ (session : Vector Byte 8) (time : SyncTime) (pos : Fin 8) (pad : Byte) (s : State),
    s.pend = none →
    let block := timeBlock pos pad (timeBytes time)
    (timeBytes time)[6].toNat = time.weekday ∧ (timeBytes time)[6].toNat ≤ 6 ∧
    block[pos] = pad ∧ block.toList.eraseIdx pos = (timeBytes time).toList ∧
    ∃ t : State,
      timeSyncLines session pos pad time = [.ldkey session.toList, .ldblk block, .enc, .poll, .rdblk] ∧
      execAll (transactions (assemble [.ldkey session.toList, .ldblk block, .enc])) s = .next t ∧
      (∀ i : Fin 8, t.key[i.val] = session[i]) ∧ t.keylen = 0x08 ∧ t.din = block ∧ t.dinlen = 0x08 ∧
      t.err = s.err ∧ t.errcode = s.errcode ∧
      (complete t).done = true ∧ (complete t).dout = bytes8 (desEnc (be8 session) (be8 block)) ∧
      ∀ (len cmd : Byte) (hdr : Vector Byte 4) (r0 r1 : Byte) (before after : List Byte) (chk : Byte),
        let f := timeSyncFrame len cmd hdr r0 r1 before (complete t).dout after chk
        f = ([0xA5, len, cmd, hdr[0], hdr[1], hdr[2], hdr[3], r0, r1] : List Byte) ++ before ++
          (complete t).dout.toList ++ after ++ [chk, 0x5A]
end

