-- ==== Sys2Proof/Laws/Des.lean ====
section
/-! SUPPORT. The small lemmas of the DES building blocks: bits of a permutation, the permutations and
XOR, the rounds and their reversal. -/

namespace Sys2Proof.Machine

/-- Bit `i` of `bitsOf m f` is `f i`. -/
theorem getLsbD_bitsOf (m : Nat) (f : Nat → Bool) (i : Nat) :
    (bitsOf m f).getLsbD i = (decide (i < m) && f i) := by
  induction m with
  | zero => simp [bitsOf]
  | succ m ih =>
    rw [bitsOf, BitVec.getLsbD_cons]
    by_cases h : i = m
    · simp [h]
    · rw [if_neg h, ih]
      congr 1
      simp only [decide_eq_decide]
      omega

/-- Bit `i` of a permutation is the bit of the input that its table names (00_scope.md R10). -/
theorem getLsbD_permute {w m : Nat} (T : Vector Nat m) (v : BitVec w) (i : Nat) :
    (permute T v).getLsbD i =
      (decide (i < m) && v.getLsbD (w - T[m - 1 - i]?.getD 0)) :=
  getLsbD_bitsOf m _ i

/-- A permutation is linear over XOR. -/
theorem permute_xor {w m : Nat} (T : Vector Nat m) (u v : BitVec w) :
    permute T (u ^^^ v) = permute T u ^^^ permute T v := by
  apply BitVec.eq_of_getLsbD_eq
  intro i hi
  simp only [getLsbD_permute, BitVec.getLsbD_xor, hi, decide_true, Bool.true_and]

/-- The entry of a table that a bit of the result reads is one of its entries. -/
theorem entry_mem {m : Nat} (T : Vector Nat m) (i : Nat) (h : i < m) :
    T[m - 1 - i]?.getD 0 ∈ T.toList := by
  have hl : m - 1 - i < m := by omega
  rw [Vector.getElem?_eq_getElem hl, Option.getD_some, Vector.mem_toList_iff]
  exact Vector.getElem_mem hl

/-- Two inputs that agree on the bits a table names have the same permutation. -/
theorem permute_congr {w m : Nat} (T : Vector Nat m) (u v : BitVec w)
    (h : ∀ t ∈ T.toList, u.getLsbD (w - t) = v.getLsbD (w - t)) : permute T u = permute T v := by
  apply BitVec.eq_of_getLsbD_eq
  intro i hi
  simp only [getLsbD_permute, hi, decide_true, Bool.true_and]
  exact h _ (entry_mem T i hi)

/-- A permutation of the complement, for a table whose entries are FIPS positions of the input. -/
theorem permute_not {w m : Nat} (T : Vector Nat m) (v : BitVec w)
    (h : ∀ t ∈ T.toList, 0 < t ∧ t ≤ w) : permute T (~~~v) = ~~~(permute T v) := by
  apply BitVec.eq_of_getLsbD_eq
  intro i hi
  have ht := h _ (entry_mem T i hi)
  simp only [getLsbD_permute, BitVec.getLsbD_not, hi, decide_true, Bool.true_and]
  rw [decide_eq_true (show w - T[m - 1 - i]?.getD 0 < w by omega), Bool.true_and]

/-- The rounds under a list of subkeys, one part after the other. -/
theorem rounds_append (ks ls : List (BitVec 48)) (lr : BitVec 32 × BitVec 32) :
    rounds (ks ++ ls) lr = rounds ls (rounds ks lr) := by
  induction ks generalizing lr with
  | nil => rfl
  | cons k ks ih => simp [rounds, ih]

/-- The rounds under the reversed subkeys, with the halves swapped, undo the rounds. -/
theorem rounds_reverse (ks : List (BitVec 48)) (lr : BitVec 32 × BitVec 32) :
    rounds ks.reverse (rounds ks lr).swap = lr.swap := by
  induction ks generalizing lr with
  | nil => rfl
  | cons k ks ih =>
    have h : rounds (k :: ks) lr = rounds ks (lr.2, lr.1 ^^^ feistel lr.2 k) := rfl
    rw [List.reverse_cons, rounds_append, h, ih]
    simp [rounds, Prod.swap]

/-- One subkey for each rotation. -/
@[simp] theorem subkeys_length (c d : BitVec 28) (ns : List Nat) :
    (subkeys c d ns).length = ns.length := by
  induction ns generalizing c d with
  | nil => rfl
  | cons n ns ih => simp [subkeys, ih]

/-- Sixteen subkeys (41_cipher.md R120). -/
@[simp] theorem keySchedule_length (k : BitVec 64) : (keySchedule k).length = 16 := by
  simp [keySchedule, shiftsTable]

end Sys2Proof.Machine
end

