-- ==== Sys2Proof/Laws/State.lean ====
section
/-! SUPPORT. One lemma for each field after each named update of the state, true by unfolding, so that
no later proof unfolds a record update. -/

namespace Sys2Proof.Machine

section
variable (s : State)

/-! `raiseError` -/
@[simp] theorem raiseError_key (e : ErrorCause) : (raiseError e s).key = s.key := rfl
@[simp] theorem raiseError_keylen (e : ErrorCause) : (raiseError e s).keylen = s.keylen := rfl
@[simp] theorem raiseError_din (e : ErrorCause) : (raiseError e s).din = s.din := rfl
@[simp] theorem raiseError_dinlen (e : ErrorCause) : (raiseError e s).dinlen = s.dinlen := rfl
@[simp] theorem raiseError_dout (e : ErrorCause) : (raiseError e s).dout = s.dout := rfl
@[simp] theorem raiseError_done (e : ErrorCause) : (raiseError e s).done = s.done := rfl
@[simp] theorem raiseError_err (e : ErrorCause) : (raiseError e s).err = true := rfl
@[simp] theorem raiseError_errcode (e : ErrorCause) : (raiseError e s).errcode = errorCode e := rfl
@[simp] theorem raiseError_sum16 (e : ErrorCause) : (raiseError e s).sum16 = s.sum16 := rfl
@[simp] theorem raiseError_xor8 (e : ErrorCause) : (raiseError e s).xor8 = s.xor8 := rfl
@[simp] theorem raiseError_pend (e : ErrorCause) : (raiseError e s).pend = s.pend := rfl
@[simp] theorem raiseError_program (e : ErrorCause) : (raiseError e s).program = s.program := rfl
@[simp] theorem raiseError_schedule (e : ErrorCause) : (raiseError e s).schedule = s.schedule := rfl
@[simp] theorem raiseError_resetPin (e : ErrorCause) : (raiseError e s).resetPin = s.resetPin := rfl
@[simp] theorem raiseError_reads (e : ErrorCause) : (raiseError e s).reads = s.reads := rfl

/-! `clearError` -/
@[simp] theorem clearError_key : (clearError s).key = s.key := rfl
@[simp] theorem clearError_keylen : (clearError s).keylen = s.keylen := rfl
@[simp] theorem clearError_din : (clearError s).din = s.din := rfl
@[simp] theorem clearError_dinlen : (clearError s).dinlen = s.dinlen := rfl
@[simp] theorem clearError_dout : (clearError s).dout = s.dout := rfl
@[simp] theorem clearError_done : (clearError s).done = s.done := rfl
@[simp] theorem clearError_err : (clearError s).err = false := rfl
@[simp] theorem clearError_errcode : (clearError s).errcode = 0x00 := rfl
@[simp] theorem clearError_sum16 : (clearError s).sum16 = s.sum16 := rfl
@[simp] theorem clearError_xor8 : (clearError s).xor8 = s.xor8 := rfl
@[simp] theorem clearError_pend : (clearError s).pend = s.pend := rfl
@[simp] theorem clearError_program : (clearError s).program = s.program := rfl
@[simp] theorem clearError_schedule : (clearError s).schedule = s.schedule := rfl
@[simp] theorem clearError_resetPin : (clearError s).resetPin = s.resetPin := rfl
@[simp] theorem clearError_reads : (clearError s).reads = s.reads := rfl

/-! `resetState` -/
@[simp] theorem resetState_key : (resetState s).key = State.reset.key := rfl
@[simp] theorem resetState_keylen : (resetState s).keylen = State.reset.keylen := rfl
@[simp] theorem resetState_din : (resetState s).din = State.reset.din := rfl
@[simp] theorem resetState_dinlen : (resetState s).dinlen = State.reset.dinlen := rfl
@[simp] theorem resetState_dout : (resetState s).dout = State.reset.dout := rfl
@[simp] theorem resetState_done : (resetState s).done = State.reset.done := rfl
@[simp] theorem resetState_err : (resetState s).err = State.reset.err := rfl
@[simp] theorem resetState_errcode : (resetState s).errcode = State.reset.errcode := rfl
@[simp] theorem resetState_sum16 : (resetState s).sum16 = State.reset.sum16 := rfl
@[simp] theorem resetState_xor8 : (resetState s).xor8 = State.reset.xor8 := rfl
@[simp] theorem resetState_pend : (resetState s).pend = State.reset.pend := rfl
@[simp] theorem resetState_program : (resetState s).program = s.program := rfl
@[simp] theorem resetState_schedule : (resetState s).schedule = s.schedule := rfl
@[simp] theorem resetState_resetPin : (resetState s).resetPin = s.resetPin := rfl
@[simp] theorem resetState_reads : (resetState s).reads = s.reads := rfl

/-! `setKey` -/
@[simp] theorem setKey_key (i : Fin 16) (d : Byte) : (setKey i d s).key = s.key.set i d := rfl
@[simp] theorem setKey_keylen (i : Fin 16) (d : Byte) : (setKey i d s).keylen = s.keylen := rfl
@[simp] theorem setKey_din (i : Fin 16) (d : Byte) : (setKey i d s).din = s.din := rfl
@[simp] theorem setKey_dinlen (i : Fin 16) (d : Byte) : (setKey i d s).dinlen = s.dinlen := rfl
@[simp] theorem setKey_dout (i : Fin 16) (d : Byte) : (setKey i d s).dout = s.dout := rfl
@[simp] theorem setKey_done (i : Fin 16) (d : Byte) : (setKey i d s).done = s.done := rfl
@[simp] theorem setKey_err (i : Fin 16) (d : Byte) : (setKey i d s).err = s.err := rfl
@[simp] theorem setKey_errcode (i : Fin 16) (d : Byte) : (setKey i d s).errcode = s.errcode := rfl
@[simp] theorem setKey_sum16 (i : Fin 16) (d : Byte) : (setKey i d s).sum16 = s.sum16 := rfl
@[simp] theorem setKey_xor8 (i : Fin 16) (d : Byte) : (setKey i d s).xor8 = s.xor8 := rfl
@[simp] theorem setKey_pend (i : Fin 16) (d : Byte) : (setKey i d s).pend = s.pend := rfl
@[simp] theorem setKey_program (i : Fin 16) (d : Byte) : (setKey i d s).program = s.program := rfl
@[simp] theorem setKey_schedule (i : Fin 16) (d : Byte) : (setKey i d s).schedule = s.schedule := rfl
@[simp] theorem setKey_resetPin (i : Fin 16) (d : Byte) : (setKey i d s).resetPin = s.resetPin := rfl
@[simp] theorem setKey_reads (i : Fin 16) (d : Byte) : (setKey i d s).reads = s.reads := rfl

/-! `setKeylen` -/
@[simp] theorem setKeylen_key (d : Byte) : (setKeylen d s).key = s.key := rfl
@[simp] theorem setKeylen_keylen (d : Byte) : (setKeylen d s).keylen = d := rfl
@[simp] theorem setKeylen_din (d : Byte) : (setKeylen d s).din = s.din := rfl
@[simp] theorem setKeylen_dinlen (d : Byte) : (setKeylen d s).dinlen = s.dinlen := rfl
@[simp] theorem setKeylen_dout (d : Byte) : (setKeylen d s).dout = s.dout := rfl
@[simp] theorem setKeylen_done (d : Byte) : (setKeylen d s).done = s.done := rfl
@[simp] theorem setKeylen_err (d : Byte) : (setKeylen d s).err = s.err := rfl
@[simp] theorem setKeylen_errcode (d : Byte) : (setKeylen d s).errcode = s.errcode := rfl
@[simp] theorem setKeylen_sum16 (d : Byte) : (setKeylen d s).sum16 = s.sum16 := rfl
@[simp] theorem setKeylen_xor8 (d : Byte) : (setKeylen d s).xor8 = s.xor8 := rfl
@[simp] theorem setKeylen_pend (d : Byte) : (setKeylen d s).pend = s.pend := rfl
@[simp] theorem setKeylen_program (d : Byte) : (setKeylen d s).program = s.program := rfl
@[simp] theorem setKeylen_schedule (d : Byte) : (setKeylen d s).schedule = s.schedule := rfl
@[simp] theorem setKeylen_resetPin (d : Byte) : (setKeylen d s).resetPin = s.resetPin := rfl
@[simp] theorem setKeylen_reads (d : Byte) : (setKeylen d s).reads = s.reads := rfl

/-! `setDin` -/
@[simp] theorem setDin_key (i : Fin 8) (d : Byte) : (setDin i d s).key = s.key := rfl
@[simp] theorem setDin_keylen (i : Fin 8) (d : Byte) : (setDin i d s).keylen = s.keylen := rfl
@[simp] theorem setDin_din (i : Fin 8) (d : Byte) : (setDin i d s).din = s.din.set i d := rfl
@[simp] theorem setDin_dinlen (i : Fin 8) (d : Byte) : (setDin i d s).dinlen = s.dinlen := rfl
@[simp] theorem setDin_dout (i : Fin 8) (d : Byte) : (setDin i d s).dout = s.dout := rfl
@[simp] theorem setDin_done (i : Fin 8) (d : Byte) : (setDin i d s).done = s.done := rfl
@[simp] theorem setDin_err (i : Fin 8) (d : Byte) : (setDin i d s).err = s.err := rfl
@[simp] theorem setDin_errcode (i : Fin 8) (d : Byte) : (setDin i d s).errcode = s.errcode := rfl
@[simp] theorem setDin_sum16 (i : Fin 8) (d : Byte) : (setDin i d s).sum16 = s.sum16 := rfl
@[simp] theorem setDin_xor8 (i : Fin 8) (d : Byte) : (setDin i d s).xor8 = s.xor8 := rfl
@[simp] theorem setDin_pend (i : Fin 8) (d : Byte) : (setDin i d s).pend = s.pend := rfl
@[simp] theorem setDin_program (i : Fin 8) (d : Byte) : (setDin i d s).program = s.program := rfl
@[simp] theorem setDin_schedule (i : Fin 8) (d : Byte) : (setDin i d s).schedule = s.schedule := rfl
@[simp] theorem setDin_resetPin (i : Fin 8) (d : Byte) : (setDin i d s).resetPin = s.resetPin := rfl
@[simp] theorem setDin_reads (i : Fin 8) (d : Byte) : (setDin i d s).reads = s.reads := rfl

/-! `setDinlen` -/
@[simp] theorem setDinlen_key (d : Byte) : (setDinlen d s).key = s.key := rfl
@[simp] theorem setDinlen_keylen (d : Byte) : (setDinlen d s).keylen = s.keylen := rfl
@[simp] theorem setDinlen_din (d : Byte) : (setDinlen d s).din = s.din := rfl
@[simp] theorem setDinlen_dinlen (d : Byte) : (setDinlen d s).dinlen = d := rfl
@[simp] theorem setDinlen_dout (d : Byte) : (setDinlen d s).dout = s.dout := rfl
@[simp] theorem setDinlen_done (d : Byte) : (setDinlen d s).done = s.done := rfl
@[simp] theorem setDinlen_err (d : Byte) : (setDinlen d s).err = s.err := rfl
@[simp] theorem setDinlen_errcode (d : Byte) : (setDinlen d s).errcode = s.errcode := rfl
@[simp] theorem setDinlen_sum16 (d : Byte) : (setDinlen d s).sum16 = s.sum16 := rfl
@[simp] theorem setDinlen_xor8 (d : Byte) : (setDinlen d s).xor8 = s.xor8 := rfl
@[simp] theorem setDinlen_pend (d : Byte) : (setDinlen d s).pend = s.pend := rfl
@[simp] theorem setDinlen_program (d : Byte) : (setDinlen d s).program = s.program := rfl
@[simp] theorem setDinlen_schedule (d : Byte) : (setDinlen d s).schedule = s.schedule := rfl
@[simp] theorem setDinlen_resetPin (d : Byte) : (setDinlen d s).resetPin = s.resetPin := rfl
@[simp] theorem setDinlen_reads (d : Byte) : (setDinlen d s).reads = s.reads := rfl

/-! `returnByte` -/
@[simp] theorem returnByte_key (v : Byte) : (returnByte v s).key = s.key := rfl
@[simp] theorem returnByte_keylen (v : Byte) : (returnByte v s).keylen = s.keylen := rfl
@[simp] theorem returnByte_din (v : Byte) : (returnByte v s).din = s.din := rfl
@[simp] theorem returnByte_dinlen (v : Byte) : (returnByte v s).dinlen = s.dinlen := rfl
@[simp] theorem returnByte_dout (v : Byte) : (returnByte v s).dout = s.dout := rfl
@[simp] theorem returnByte_done (v : Byte) : (returnByte v s).done = s.done := rfl
@[simp] theorem returnByte_err (v : Byte) : (returnByte v s).err = s.err := rfl
@[simp] theorem returnByte_errcode (v : Byte) : (returnByte v s).errcode = s.errcode := rfl
@[simp] theorem returnByte_sum16 (v : Byte) : (returnByte v s).sum16 = s.sum16 := rfl
@[simp] theorem returnByte_xor8 (v : Byte) : (returnByte v s).xor8 = s.xor8 := rfl
@[simp] theorem returnByte_pend (v : Byte) : (returnByte v s).pend = s.pend := rfl
@[simp] theorem returnByte_program (v : Byte) : (returnByte v s).program = s.program := rfl
@[simp] theorem returnByte_schedule (v : Byte) : (returnByte v s).schedule = s.schedule := rfl
@[simp] theorem returnByte_resetPin (v : Byte) : (returnByte v s).resetPin = s.resetPin := rfl
@[simp] theorem returnByte_reads (v : Byte) : (returnByte v s).reads = v :: s.reads := rfl

/-! `absorb` -/
@[simp] theorem absorb_key (b : Byte) : (absorb b s).key = s.key := rfl
@[simp] theorem absorb_keylen (b : Byte) : (absorb b s).keylen = s.keylen := rfl
@[simp] theorem absorb_din (b : Byte) : (absorb b s).din = s.din := rfl
@[simp] theorem absorb_dinlen (b : Byte) : (absorb b s).dinlen = s.dinlen := rfl
@[simp] theorem absorb_dout (b : Byte) : (absorb b s).dout = s.dout := rfl
@[simp] theorem absorb_done (b : Byte) : (absorb b s).done = s.done := rfl
@[simp] theorem absorb_err (b : Byte) : (absorb b s).err = s.err := rfl
@[simp] theorem absorb_errcode (b : Byte) : (absorb b s).errcode = s.errcode := rfl
@[simp] theorem absorb_sum16 (b : Byte) : (absorb b s).sum16 = s.sum16 + b.setWidth 16 := rfl
@[simp] theorem absorb_xor8 (b : Byte) : (absorb b s).xor8 = s.xor8 ^^^ b := rfl
@[simp] theorem absorb_pend (b : Byte) : (absorb b s).pend = s.pend := rfl
@[simp] theorem absorb_program (b : Byte) : (absorb b s).program = s.program := rfl
@[simp] theorem absorb_schedule (b : Byte) : (absorb b s).schedule = s.schedule := rfl
@[simp] theorem absorb_resetPin (b : Byte) : (absorb b s).resetPin = s.resetPin := rfl
@[simp] theorem absorb_reads (b : Byte) : (absorb b s).reads = s.reads := rfl

/-! `clearChecksum` -/
@[simp] theorem clearChecksum_key : (clearChecksum s).key = s.key := rfl
@[simp] theorem clearChecksum_keylen : (clearChecksum s).keylen = s.keylen := rfl
@[simp] theorem clearChecksum_din : (clearChecksum s).din = s.din := rfl
@[simp] theorem clearChecksum_dinlen : (clearChecksum s).dinlen = s.dinlen := rfl
@[simp] theorem clearChecksum_dout : (clearChecksum s).dout = s.dout := rfl
@[simp] theorem clearChecksum_done : (clearChecksum s).done = s.done := rfl
@[simp] theorem clearChecksum_err : (clearChecksum s).err = s.err := rfl
@[simp] theorem clearChecksum_errcode : (clearChecksum s).errcode = s.errcode := rfl
@[simp] theorem clearChecksum_sum16 : (clearChecksum s).sum16 = 0x0000 := rfl
@[simp] theorem clearChecksum_xor8 : (clearChecksum s).xor8 = 0x00 := rfl
@[simp] theorem clearChecksum_pend : (clearChecksum s).pend = s.pend := rfl
@[simp] theorem clearChecksum_program : (clearChecksum s).program = s.program := rfl
@[simp] theorem clearChecksum_schedule : (clearChecksum s).schedule = s.schedule := rfl
@[simp] theorem clearChecksum_resetPin : (clearChecksum s).resetPin = s.resetPin := rfl
@[simp] theorem clearChecksum_reads : (clearChecksum s).reads = s.reads := rfl

/-! `clearDone` -/
@[simp] theorem clearDone_key : (clearDone s).key = s.key := rfl
@[simp] theorem clearDone_keylen : (clearDone s).keylen = s.keylen := rfl
@[simp] theorem clearDone_din : (clearDone s).din = s.din := rfl
@[simp] theorem clearDone_dinlen : (clearDone s).dinlen = s.dinlen := rfl
@[simp] theorem clearDone_dout : (clearDone s).dout = s.dout := rfl
@[simp] theorem clearDone_done : (clearDone s).done = false := rfl
@[simp] theorem clearDone_err : (clearDone s).err = s.err := rfl
@[simp] theorem clearDone_errcode : (clearDone s).errcode = s.errcode := rfl
@[simp] theorem clearDone_sum16 : (clearDone s).sum16 = s.sum16 := rfl
@[simp] theorem clearDone_xor8 : (clearDone s).xor8 = s.xor8 := rfl
@[simp] theorem clearDone_pend : (clearDone s).pend = s.pend := rfl
@[simp] theorem clearDone_program : (clearDone s).program = s.program := rfl
@[simp] theorem clearDone_schedule : (clearDone s).schedule = s.schedule := rfl
@[simp] theorem clearDone_resetPin : (clearDone s).resetPin = s.resetPin := rfl
@[simp] theorem clearDone_reads : (clearDone s).reads = s.reads := rfl

/-! `accept` -/
@[simp] theorem accept_key (a : Dir) : (accept a s).key = s.key := rfl
@[simp] theorem accept_keylen (a : Dir) : (accept a s).keylen = s.keylen := rfl
@[simp] theorem accept_din (a : Dir) : (accept a s).din = s.din := rfl
@[simp] theorem accept_dinlen (a : Dir) : (accept a s).dinlen = s.dinlen := rfl
@[simp] theorem accept_dout (a : Dir) : (accept a s).dout = s.dout := rfl
@[simp] theorem accept_done (a : Dir) : (accept a s).done = s.done := rfl
@[simp] theorem accept_err (a : Dir) : (accept a s).err = s.err := rfl
@[simp] theorem accept_errcode (a : Dir) : (accept a s).errcode = s.errcode := rfl
@[simp] theorem accept_sum16 (a : Dir) : (accept a s).sum16 = s.sum16 := rfl
@[simp] theorem accept_xor8 (a : Dir) : (accept a s).xor8 = s.xor8 := rfl
@[simp] theorem accept_pend (a : Dir) : (accept a s).pend = some ⟨a, k64 s, b64 s⟩ := rfl
@[simp] theorem accept_program (a : Dir) : (accept a s).program = s.program := rfl
@[simp] theorem accept_schedule (a : Dir) : (accept a s).schedule = s.schedule := rfl
@[simp] theorem accept_resetPin (a : Dir) : (accept a s).resetPin = s.resetPin := rfl
@[simp] theorem accept_reads (a : Dir) : (accept a s).reads = s.reads := rfl

/-! `setProgram` -/
@[simp] theorem setProgram_key (p : List HostOp) : (setProgram p s).key = s.key := rfl
@[simp] theorem setProgram_keylen (p : List HostOp) : (setProgram p s).keylen = s.keylen := rfl
@[simp] theorem setProgram_din (p : List HostOp) : (setProgram p s).din = s.din := rfl
@[simp] theorem setProgram_dinlen (p : List HostOp) : (setProgram p s).dinlen = s.dinlen := rfl
@[simp] theorem setProgram_dout (p : List HostOp) : (setProgram p s).dout = s.dout := rfl
@[simp] theorem setProgram_done (p : List HostOp) : (setProgram p s).done = s.done := rfl
@[simp] theorem setProgram_err (p : List HostOp) : (setProgram p s).err = s.err := rfl
@[simp] theorem setProgram_errcode (p : List HostOp) : (setProgram p s).errcode = s.errcode := rfl
@[simp] theorem setProgram_sum16 (p : List HostOp) : (setProgram p s).sum16 = s.sum16 := rfl
@[simp] theorem setProgram_xor8 (p : List HostOp) : (setProgram p s).xor8 = s.xor8 := rfl
@[simp] theorem setProgram_pend (p : List HostOp) : (setProgram p s).pend = s.pend := rfl
@[simp] theorem setProgram_program (p : List HostOp) : (setProgram p s).program = p := rfl
@[simp] theorem setProgram_schedule (p : List HostOp) : (setProgram p s).schedule = s.schedule := rfl
@[simp] theorem setProgram_resetPin (p : List HostOp) : (setProgram p s).resetPin = s.resetPin := rfl
@[simp] theorem setProgram_reads (p : List HostOp) : (setProgram p s).reads = s.reads := rfl

/-! `setSchedule` -/
@[simp] theorem setSchedule_key (l : List Turn) : (setSchedule l s).key = s.key := rfl
@[simp] theorem setSchedule_keylen (l : List Turn) : (setSchedule l s).keylen = s.keylen := rfl
@[simp] theorem setSchedule_din (l : List Turn) : (setSchedule l s).din = s.din := rfl
@[simp] theorem setSchedule_dinlen (l : List Turn) : (setSchedule l s).dinlen = s.dinlen := rfl
@[simp] theorem setSchedule_dout (l : List Turn) : (setSchedule l s).dout = s.dout := rfl
@[simp] theorem setSchedule_done (l : List Turn) : (setSchedule l s).done = s.done := rfl
@[simp] theorem setSchedule_err (l : List Turn) : (setSchedule l s).err = s.err := rfl
@[simp] theorem setSchedule_errcode (l : List Turn) : (setSchedule l s).errcode = s.errcode := rfl
@[simp] theorem setSchedule_sum16 (l : List Turn) : (setSchedule l s).sum16 = s.sum16 := rfl
@[simp] theorem setSchedule_xor8 (l : List Turn) : (setSchedule l s).xor8 = s.xor8 := rfl
@[simp] theorem setSchedule_pend (l : List Turn) : (setSchedule l s).pend = s.pend := rfl
@[simp] theorem setSchedule_program (l : List Turn) : (setSchedule l s).program = s.program := rfl
@[simp] theorem setSchedule_schedule (l : List Turn) : (setSchedule l s).schedule = l := rfl
@[simp] theorem setSchedule_resetPin (l : List Turn) : (setSchedule l s).resetPin = s.resetPin := rfl
@[simp] theorem setSchedule_reads (l : List Turn) : (setSchedule l s).reads = s.reads := rfl

/-! `setResetPin` -/
@[simp] theorem setResetPin_key (b : Bool) : (setResetPin b s).key = s.key := rfl
@[simp] theorem setResetPin_keylen (b : Bool) : (setResetPin b s).keylen = s.keylen := rfl
@[simp] theorem setResetPin_din (b : Bool) : (setResetPin b s).din = s.din := rfl
@[simp] theorem setResetPin_dinlen (b : Bool) : (setResetPin b s).dinlen = s.dinlen := rfl
@[simp] theorem setResetPin_dout (b : Bool) : (setResetPin b s).dout = s.dout := rfl
@[simp] theorem setResetPin_done (b : Bool) : (setResetPin b s).done = s.done := rfl
@[simp] theorem setResetPin_err (b : Bool) : (setResetPin b s).err = s.err := rfl
@[simp] theorem setResetPin_errcode (b : Bool) : (setResetPin b s).errcode = s.errcode := rfl
@[simp] theorem setResetPin_sum16 (b : Bool) : (setResetPin b s).sum16 = s.sum16 := rfl
@[simp] theorem setResetPin_xor8 (b : Bool) : (setResetPin b s).xor8 = s.xor8 := rfl
@[simp] theorem setResetPin_pend (b : Bool) : (setResetPin b s).pend = s.pend := rfl
@[simp] theorem setResetPin_program (b : Bool) : (setResetPin b s).program = s.program := rfl
@[simp] theorem setResetPin_schedule (b : Bool) : (setResetPin b s).schedule = s.schedule := rfl
@[simp] theorem setResetPin_resetPin (b : Bool) : (setResetPin b s).resetPin = b := rfl
@[simp] theorem setResetPin_reads (b : Bool) : (setResetPin b s).reads = s.reads := rfl

end

end Sys2Proof.Machine
end

