-- ==== Sys2Proof/Laws/Ops.lean ====
section
/-! SUPPORT. What the shared operations can do, said once. -/

namespace Sys2Proof.Machine

/-- `BUSY` is 0 exactly when nothing is pending. -/
theorem busy_eq_false_iff (s : State) : busy s = false ↔ s.pend = none := by
  simp [busy, Option.isSome_eq_false_iff, Option.isNone_iff_eq_none]

/-- `BUSY` is 1 exactly when an operation is pending. -/
theorem busy_eq_true_iff (s : State) : busy s = true ↔ s.pend ≠ none := by
  rw [ne_eq, ← busy_eq_false_iff, Bool.not_eq_false]

/-- `KEYOK` as a range (10_state.md R26). -/
theorem keyok_iff (s : State) : keyok s = true ↔ 8 ≤ s.keylen.toNat ∧ s.keylen.toNat ≤ 16 := by
  rw [keyok, Bool.and_eq_true, decide_eq_true_eq, decide_eq_true_eq]
  rfl

/-- `BLKOK` as an equation (10_state.md R26). -/
theorem blkok_iff (s : State) : blkok s = true ↔ s.dinlen.toNat = 8 := by
  simp [blkok, Config.blockBytes]

/-- `DONE` is no operand of a cipher command. -/
@[simp] theorem keyok_clearDone (s : State) : keyok (clearDone s) = keyok s := rfl
@[simp] theorem blkok_clearDone (s : State) : blkok (clearDone s) = blkok s := rfl
@[simp] theorem checkOperands_clearDone (s : State) : checkOperands (clearDone s) = checkOperands s :=
  rfl
@[simp] theorem k64_clearDone (s : State) : k64 (clearDone s) = k64 s := rfl
@[simp] theorem b64_clearDone (s : State) : b64 (clearDone s) = b64 s := rfl

/-- Everything a cipher command can do (41_cipher.md R113 to R116): reject as busy, reject the key,
reject the block, or accept. -/
theorem startCipher_cases (d : Dir) (s : State) :
    (busy s = true ∧ startCipher d s = raiseError .busy s) ∨
    (busy s = false ∧ keyok s = false ∧ startCipher d s = raiseError .invalidKey (clearDone s)) ∨
    (busy s = false ∧ keyok s = true ∧ blkok s = false ∧
      startCipher d s = raiseError .invalidBlock (clearDone s)) ∨
    (busy s = false ∧ keyok s = true ∧ blkok s = true ∧ startCipher d s = accept d (clearDone s)) := by
  cases hb : busy s <;> cases hk : keyok s <;> cases hd : blkok s <;>
    simp [startCipher, checkOperands, hb, hk, hd]

/-- A command rejected as busy. -/
theorem startCipher_busy (d : Dir) (s : State) (hb : busy s = true) :
    startCipher d s = raiseError .busy s := by
  simp [startCipher, hb]

/-- A command rejected for its key length. -/
theorem startCipher_badKey (d : Dir) (s : State) (hb : busy s = false) (hk : keyok s = false) :
    startCipher d s = raiseError .invalidKey (clearDone s) := by
  simp [startCipher, checkOperands, hb, hk]

/-- A command rejected for its block length. -/
theorem startCipher_badBlock (d : Dir) (s : State) (hb : busy s = false) (hk : keyok s = true)
    (hd : blkok s = false) : startCipher d s = raiseError .invalidBlock (clearDone s) := by
  simp [startCipher, checkOperands, hb, hk, hd]

/-- An accepted command. -/
theorem startCipher_accepts (d : Dir) (s : State) (hb : busy s = false) (hk : keyok s = true)
    (hd : blkok s = true) : startCipher d s = accept d (clearDone s) := by
  simp [startCipher, checkOperands, hb, hk, hd]

/-- A reset block is at rest under another reset. -/
@[simp] theorem resetState_resetState (s : State) : resetState (resetState s) = resetState s := rfl

/-- `STATUS` bit by bit (10_state.md R26). -/
theorem status_getLsbD (s : State) :
    (status s).getLsbD 0 = busy s ∧ (status s).getLsbD 1 = s.done ∧ (status s).getLsbD 2 = s.err ∧
      (status s).getLsbD 3 = keyok s ∧ (status s).getLsbD 4 = blkok s := by
  unfold status
  generalize busy s = a
  generalize s.done = b
  generalize s.err = c
  generalize keyok s = d
  generalize blkok s = e
  revert a b c d e
  decide

end Sys2Proof.Machine
end

