-- ==== Sys2Proof/Laws/PerInstr.lean ====
section
/-! SUPPORT. Statements made instruction by instruction. -/

namespace Sys2Proof.Laws.RowMatch

/-- The word of an instruction matches the instruction's own row of the opcode table (30_encoding.md
R77): the encoder's fixed bits are the table's. -/
def Statement (i : Instr) : Prop :=
  ∀ r ∈ opcodeTable, r.mnemonic = i.mnemonic → r.hits (encode i) = true

/-- The table has one row for each mnemonic (R77). -/
theorem one_row_per_mnemonic :
    ∀ q ∈ opcodeTable, ∀ r ∈ opcodeTable, q.mnemonic = r.mnemonic → q = r := by decide

/-- It is enough to look at one row of the instruction's mnemonic. -/
theorem of_row {i : Instr} (r : Row) (hr : r ∈ opcodeTable) (hm : r.mnemonic = i.mnemonic)
    (h : encode i &&& r.mask = r.pattern) : Statement i := by
  intro q hq hqm
  rw [one_row_per_mnemonic q hq r hr (hqm.trans hm.symm), Row.hits, h]
  exact beq_self_eq_true _

theorem invalid (top : BitVec 1) (low : BitVec 14) : Statement (.invalid top low) := by
  refine of_row ⟨.INVALID, 0x4000, 0x4000⟩ (by decide) rfl ?_
  apply BitVec.eq_of_getLsbD_eq
  intro i hi
  simp only [encode, BitVec.getLsbD_and, BitVec.getLsbD_append]
  interval_cases i <;> simp

theorem rd (a : Addr) : Statement (.rd a) := by
  refine of_row ⟨.RD, 0x0000, 0xC000⟩ (by decide) rfl ?_
  apply BitVec.eq_of_getLsbD_eq
  intro i hi
  simp only [encode, readWord, busWord, BitVec.getLsbD_and, BitVec.getLsbD_append]
  interval_cases i <;> simp

theorem wr (a : Addr) (d : Byte) : Statement (.wr a d) := by
  refine of_row ⟨.WR, 0x8000, 0xC000⟩ (by decide) rfl ?_
  apply BitVec.eq_of_getLsbD_eq
  intro i hi
  simp only [encode, writeWord, busWord, BitVec.getLsbD_and, BitVec.getLsbD_append]
  interval_cases i <;> simp

theorem wrKey (k : Fin 16) (d : Byte) : Statement (.wrKey k d) := by
  refine of_row ⟨.WR_KEY, 0xA000, 0xF000⟩ (by decide) rfl ?_
  apply BitVec.eq_of_getLsbD_eq
  intro i hi
  simp only [encode, BitVec.getLsbD_and, BitVec.getLsbD_append]
  interval_cases i <;> simp

theorem wrDin (k : Fin 8) (d : Byte) : Statement (.wrDin k d) := by
  refine of_row ⟨.WR_DIN, 0x9000, 0xF800⟩ (by decide) rfl ?_
  apply BitVec.eq_of_getLsbD_eq
  intro i hi
  simp only [encode, BitVec.getLsbD_and, BitVec.getLsbD_append]
  interval_cases i <;> simp

theorem wrKeylen (d : Byte) : Statement (.wrKeylen d) := by
  refine of_row ⟨.WR_KEYLEN, 0x8300, 0xFF00⟩ (by decide) rfl ?_
  apply BitVec.eq_of_getLsbD_eq
  intro i hi
  simp only [encode, BitVec.getLsbD_and, BitVec.getLsbD_append]
  interval_cases i <;> simp

theorem wrDinlen (d : Byte) : Statement (.wrDinlen d) := by
  refine of_row ⟨.WR_DINLEN, 0x8400, 0xFF00⟩ (by decide) rfl ?_
  apply BitVec.eq_of_getLsbD_eq
  intro i hi
  simp only [encode, BitVec.getLsbD_and, BitVec.getLsbD_append]
  interval_cases i <;> simp

theorem ckin (d : Byte) : Statement (.ckin d) := by
  refine of_row ⟨.CKIN, 0x8A00, 0xFF00⟩ (by decide) rfl ?_
  apply BitVec.eq_of_getLsbD_eq
  intro i hi
  simp only [encode, BitVec.getLsbD_and, BitVec.getLsbD_append]
  interval_cases i <;> simp

theorem cmdRsvd (c : Byte) : Statement (.cmdRsvd c) := by
  refine of_row ⟨.CMD_RSVD, 0x8000, 0xFF00⟩ (by decide) rfl ?_
  apply BitVec.eq_of_getLsbD_eq
  intro i hi
  simp only [encode, BitVec.getLsbD_and, BitVec.getLsbD_append]
  interval_cases i <;> simp

theorem nop : Statement .nop := by unfold Statement; decide
theorem enc : Statement .enc := by unfold Statement; decide
theorem dec : Statement .dec := by unfold Statement; decide
theorem ckclr : Statement .ckclr := by unfold Statement; decide
theorem clrerr : Statement .clrerr := by unfold Statement; decide
theorem srst : Statement .srst := by unfold Statement; decide

end Sys2Proof.Laws.RowMatch
end

