-- ==== Sys2Proof/Laws/Step.lean ====
section
/-! SUPPORT. What one turn and one step can do, said once: inversion lemmas of the engine, the host,
the turns and the step. -/

namespace Sys2Proof.Machine

/-- The engine with a pending operation (41_cipher.md R117). -/
theorem complete_some (s : State) (p : Pending) (h : s.pend = some p) :
    complete s = { s with dout := bytes8 p.result, done := true, pend := none } := by
  simp [complete, h]

/-- The engine with nothing pending. -/
theorem complete_none (s : State) (h : s.pend = none) : complete s = s := by simp [complete, h]

/-- Only `INVALID` is refused by its meaning; every other transaction answers a next state. -/
theorem exec_next (i : Instr) (s : State) (h : i.mnemonic ≠ .INVALID) : ∃ t, exec i s = .next t := by
  cases i <;> first | exact ⟨_, rfl⟩ | exact absurd rfl h

/-- Everything the host's turn can do when it answers a next state. -/
theorem hostTurn_cases (s t : State) (h : hostTurn s = .next t) :
    (s.program = [] ∧ t = s) ∨
    (∃ w rest, s.program = .txn w :: rest ∧ s.resetPin = true ∧ t = setProgram rest s) ∨
    (∃ w rest, s.program = .txn w :: rest ∧ s.resetPin = false ∧
      exec (decode w) (setProgram rest s) = .next t) ∨
    (∃ rest, s.program = .poll :: rest ∧ s.resetPin = true ∧ t = s) ∨
    (∃ rest, s.program = .poll :: rest ∧ s.resetPin = false ∧ t = pollTurn rest s) := by
  unfold hostTurn at h
  cases hp : s.program with
  | nil => rw [hp] at h; cases h; exact .inl ⟨rfl, rfl⟩
  | cons op rest =>
    rw [hp] at h
    cases op with
    | txn w =>
      cases hr : s.resetPin <;> simp only [hr] at h
      · exact .inr (.inr (.inl ⟨w, rest, rfl, rfl, h⟩))
      · cases h; exact .inr (.inl ⟨w, rest, rfl, rfl, rfl⟩)
    | poll =>
      cases hr : s.resetPin <;> simp only [hr] at h
      · cases h; exact .inr (.inr (.inr (.inr ⟨rest, rfl, rfl, rfl⟩)))
      · cases h; exact .inr (.inr (.inr (.inl ⟨rest, rfl, rfl, rfl⟩)))

/-- The two ends of one transaction of a `POLL` loop. -/
theorem pollTurn_eq (rest : List HostOp) (s : State) :
    pollTurn rest s = if busy s then returnByte (status s) s
      else setProgram rest (returnByte (status s) s) := by
  have h := (status_getLsbD s).1
  show (if (status s).getLsbD 0 = true then _ else _) = _
  rw [h]
  rfl

/-- A step that answers a next state is one agent's turn under a valid program. -/
theorem step_cases (s t : State) (h : step s = .next t) :
    ValidProgram s ∧
      ((∃ turn l, s.schedule = turn :: l ∧ takeTurn turn (setSchedule l s) = .next t) ∨
        (s.schedule = [] ∧ takeTurn (defaultTurn s) s = .next t)) := by
  unfold step at h
  cases hv : invalidFrom 0 s.program with
  | some nw => rw [hv] at h; cases h
  | none =>
    rw [hv] at h
    refine ⟨hv, ?_⟩
    unfold nextTurn at h
    cases hs : s.schedule with
    | nil => rw [hs] at h; exact .inr ⟨rfl, h⟩
    | cons turn l => rw [hs] at h; exact .inl ⟨turn, l, rfl, h⟩

/-- A valid program's step is a turn. -/
theorem step_eq_nextTurn (s : State) (h : ValidProgram s) : step s = nextTurn s := by
  unfold step
  rw [show invalidFrom 0 s.program = none from h]

/-- The position from which invalid words are counted does not decide whether there is one. -/
theorem invalidFrom_eq_none_iff (n : Nat) (p : List HostOp) :
    invalidFrom n p = none ↔ ∀ w, HostOp.txn w ∈ p → w.getLsbD 14 = false := by
  induction p generalizing n with
  | nil => simp [invalidFrom]
  | cons op p ih =>
    cases op with
    | txn w =>
      cases hw : w.getLsbD 14
      · simp only [invalidFrom, hw, ih, List.mem_cons, HostOp.txn.injEq, Bool.false_eq_true, if_false]
        exact ⟨fun h v hv => hv.elim (fun e => e ▸ hw) (h v), fun h v hv => h v (.inr hv)⟩
      · simp only [invalidFrom, hw, if_true, List.mem_cons, HostOp.txn.injEq, reduceCtorEq, false_iff]
        exact fun h => absurd (h w (.inl rfl)) (by simp [hw])
    | poll => simp [invalidFrom, ih]

/-- `n + 1` steps are one step and `n` more. -/
theorem steps_succ (n : Nat) (s t : State) (h : step s = .next t) : steps (n + 1) s = steps n t := by
  have hc : Sys2Proof.core.step s = .next t := h
  simp only [steps, Host.Core.run, hc]
  rfl

@[simp] theorem steps_zero (s : State) : steps 0 s = .next s := rfl

/-- A list of transactions, one after the other. -/
theorem execAll_cons (i : Instr) (is : List Instr) (s t : State) (h : exec i s = .next t) :
    execAll (i :: is) s = execAll is t := by
  simp [execAll, h]

/-- A list of transactions in two parts. -/
theorem execAll_append (is js : List Instr) (s t : State) (h : execAll is s = .next t) :
    execAll (is ++ js) s = execAll js t := by
  induction is generalizing s with
  | nil => cases h; rfl
  | cons i is ih =>
    simp only [execAll, List.cons_append] at h ⊢
    cases he : exec i s with
    | next u => rw [he] at h; exact ih u h
    | fault r => rw [he] at h; cases h
    | refused r => rw [he] at h; cases h

end Sys2Proof.Machine
end

