-- ==== Sys2Proof/Tests/Slice0.lean ====
section
/-! SUPPORT. The model's own tests. Expected values come from 95_test_vectors.md (named V-..), from the
numbered rules, or from the encodings of 30_encoding.md written out by hand. After them, for each
obligation with hypotheses, a concrete case that meets them together. -/

namespace Sys2Proof.Tests

open Sys2Proof.Machine Sys2Proof.Frames

/-! ### Helpers -/

/-- The next state of an outcome, if it is one. -/
def after : Host.Outcome State Fault Refusal → Option State
  | .next s => some s
  | .fault _ => none
  | .refused _ => none

/-- The refusal of an outcome, if it is one. -/
def refusal : Host.Outcome State Fault Refusal → Option Refusal
  | .next _ => none
  | .fault _ => none
  | .refused r => some r

/-- One step that fetches the word `w`. -/
def run (w : Nat) (s : State) : Option State := after (step (s.withFetchWord 16 w))

/-- The byte a read of an address returns in a state. -/
def see (a : Addr) (s : State) : Option Byte := (after (exec (.rd a) s)).bind (·.reads.head?)

/-- Key 133457799BBCDFF1 and block 0123456789ABCDEF loaded (V-C1). -/
def loaded : State :=
  { State.reset with
    key := #v[0x13, 0x34, 0x57, 0x79, 0x9B, 0xBC, 0xDF, 0xF1, 0, 0, 0, 0, 0, 0, 0, 0]
    keylen := 8
    din := #v[0x01, 0x23, 0x45, 0x67, 0x89, 0xAB, 0xCD, 0xEF]
    dinlen := 8 }

/-- The operation that `ENC` latches in `loaded` (R115). -/
def op : Pending := ⟨.enc, 0x133457799BBCDFF1, 0x0123456789ABCDEF⟩

/-- `loaded` with that operation pending. -/
def pending : State := { loaded with pend := some op }

/-- A state that holds `InvalidBlock`, after a completed operation. -/
def failed : State := { loaded with err := true, errcode := 0x02, done := true }

/-! ### Well-formedness: an ill-formed term for each check -/

theorem test_wellFormed_wr_keylen : (Instr.wr 0x03 0x10).wellFormed = false := by decide
theorem test_wellFormed_wr_cmd : (Instr.wr 0x00 0x01).wellFormed = false := by decide
theorem test_wellFormed_wr_status : (Instr.wr 0x01 0x55).wellFormed = true := by decide
theorem test_wellFormed_cmdRsvd_enc : (Instr.cmdRsvd 0x01).wellFormed = false := by decide
theorem test_wellFormed_cmdRsvd : (Instr.cmdRsvd 0x03).wellFormed = true := by decide
theorem test_wellFormed_reserved_dout : (Reg.reserved 0x18).wellFormed = false := by decide
theorem test_wellFormed_reserved : (Reg.reserved 0x0B).wellFormed = true := by decide
theorem test_wellFormed_line_register : (AsmLine.rd (.reserved 0x18)).wellFormed = false := by decide
theorem test_wellFormed_line_wr : (AsmLine.wr (.reserved 0x00) 1).wellFormed = false := by decide
theorem test_wellFormed_ldkey_17 : (AsmLine.ldkey (List.replicate 17 0x00)).wellFormed = false := by
  decide

/-! ### Decoding: a word written bit by bit, `W Z AAAAAA DDDDDDDD` (R71), for each row -/

theorem test_decode_invalid : decode 0b0111111111111111 = .invalid 0 0x3FFF := by decide
theorem test_decode_rd : decode 0b0000100110100101 = .rd 0x09 := by decide
theorem test_decode_wr : decode 0b1001100001010101 = .wr 0x18 0x55 := by decide
theorem test_decode_wrKey : decode 0b1010111100010000 = .wrKey 15 0x10 := by decide
theorem test_decode_wrDin : decode 0b1001011111101111 = .wrDin 7 0xEF := by decide
theorem test_decode_wrKeylen : decode 0b1000001100010000 = .wrKeylen 0x10 := by decide
theorem test_decode_wrDinlen : decode 0b1000010000001000 = .wrDinlen 0x08 := by decide
theorem test_decode_ckin : decode 0b1000101001011010 = .ckin 0x5A := by decide
theorem test_decode_cmdRsvd : decode 0b1000000001000001 = .cmdRsvd 0x41 := by decide
theorem test_decode_nop : decode 0b1000000000000000 = .nop := by decide
theorem test_decode_enc : decode 0b1000000000000001 = .enc := by decide
theorem test_decode_dec : decode 0b1000000000000010 = .dec := by decide
theorem test_decode_ckclr : decode 0b1000000001000000 = .ckclr := by decide
theorem test_decode_clrerr : decode 0b1000000011000000 = .clrerr := by decide
theorem test_decode_srst : decode 0b1000000011000001 = .srst := by decide
/-- A number that is no 16-bit word is refused. -/
theorem test_decodeTableWord_wide : decodeTableWord 24 0x8000 = none := by decide

/-! ### One step of each transaction -/

theorem test_invalid_refused :
    refusal (step (State.reset.withFetchWord 16 0xC000)) = some (.invalidWord 0 0xC000) := by decide
/-- V-B1, V-B2. -/
theorem test_rd_ckcpl : (run 0x09A5 State.reset).map (·.reads) = some [0xFF] := by decide
/-- V-B4: the key is write only. -/
theorem test_rd_key : (run 0x2000 loaded).map (·.reads) = some [0x00] := by decide
/-- V-B7. -/
theorem test_wr_dout : (run 0x9855 loaded).map (·.dout) = some loaded.dout := by decide
/-- V-B14. -/
theorem test_wrKey_last : (run 0xAF10 State.reset).map (·.key[15]) = some 0x10 := by decide
/-- V-B15. -/
theorem test_wrDin_last : (run 0x97EF State.reset).bind (see 0x17) = some 0xEF := by decide
/-- V-B9: `KEYLEN = 16` is a legal length. -/
theorem test_wrKeylen_16 : (run 0x8310 State.reset).bind (see 0x01) = some 0x08 := by decide
/-- V-B10: stored as written. -/
theorem test_wrKeylen_255 : (run 0x83FF State.reset).bind (see 0x03) = some 0xFF := by decide
/-- V-B11. -/
theorem test_wrDinlen : (run 0x8408 State.reset).bind (see 0x01) = some 0x10 := by decide
/-- V-K7's last byte: the sum wraps to zero. -/
theorem test_ckin_wraps :
    (run 0x8A01 { State.reset with sum16 := 0xFFFF, xor8 := 0xFF }).map (fun t => (t.sum16, t.xor8)) =
      some (0x0000, 0xFE) := by decide
/-- V-E10: the code is decoded before the busy check. -/
theorem test_cmdRsvd_while_busy :
    (run 0x80FF pending).bind (see 0x01) = some 0x1D ∧
    (run 0x80FF pending).bind (see 0x02) = some 0x03 := by decide
/-- V-X3, on a busy block with an error recorded. -/
theorem test_nop_while_busy : (run 0x8000 { pending with err := true }).bind (see 0x01) = some 0x1D := by
  decide
/-- V-E6: `KEYLEN = 16` is accepted. -/
theorem test_enc_accepts_16 : (run 0x8001 { loaded with keylen := 16 }).bind (see 0x01) = some 0x19 := by
  decide
/-- V-E9: busy, the pending operation kept. -/
theorem test_enc_busy :
    (run 0x8001 pending).bind (see 0x01) = some 0x1D ∧
    (run 0x8001 pending).map (·.pend) = some (some op) := by decide
/-- V-E3: a short block; `DONE` is cleared before the check (R202). -/
theorem test_dec_short_block :
    (run 0x8002 { loaded with dinlen := 7, done := true }).bind (see 0x01) = some 0x0C := by decide
/-- V-E5 with `DEC`: both operands bad, `InvalidKey` wins. -/
theorem test_dec_both_bad :
    (run 0x8002 { loaded with keylen := 17, dinlen := 0 }).bind (see 0x02) = some 0x01 := by decide
/-- V-B18, R154: the unit is cleared, the error is not. -/
theorem test_ckclr :
    (run 0x8040 { failed with sum16 := 0x09D4, xor8 := 0x44 }).map (fun t => (t.sum16, t.xor8, t.err)) =
      some (0x0000, 0x00, true) := by decide
/-- V-X1: `DONE` is kept. -/
theorem test_clrerr : (run 0x80C0 failed).map (fun t => (t.err, t.errcode, t.done)) =
    some (false, 0x00, true) := by decide
/-- V-X2: the key is erased and the operation abandoned. -/
theorem test_srst : (run 0x80C1 pending).map (fun t => (t.key, t.pend, t.keylen)) =
    some (Vector.replicate 16 0x00, none, 0x00) := by decide

/-! ### The cipher and the frames (95_test_vectors.md sections 2.1, 2.2, 2.5) -/

theorem test_enc_latches : (after (exec .enc loaded)).map (·.pend) = some (some op) := by decide
/-- V-C1. -/
theorem test_enc_result : (complete pending).dout =
    #v[0x85, 0xE8, 0x13, 0x54, 0x0F, 0x0A, 0xB4, 0x05] := by decide +kernel
/-- V-C12. -/
theorem test_dec_result : desDec 0x133457799BBCDFF1 0x0000000000000000 = 0x9EFDFC5C2B5CD585 := by
  decide +kernel
/-- The first and the last tabulated subkeys of section 2.1, and `f(R0, K1)`. -/
theorem test_keySchedule : (keySchedule 0x133457799BBCDFF1)[0]? = some 0x1B02EFFC7072 ∧
    (keySchedule 0x133457799BBCDFF1)[12]? = some 0x97C5D1FABA41 := by decide +kernel
theorem test_feistel : feistel 0xF0AAF0AA 0x1B02EFFC7072 = 0x234AA9BB := by decide +kernel
/-- V-F1: the checksum byte of the handshake frame, and its sum 0x0A00 (V-K13). -/
theorem test_handshake_frame : byteSum (handshakeFrame #v[0xCC, 0xDD, 0xEE, 0xFF]
    #v[0xE9, 0xC4, 0x84, 0x2F, 0x7F, 0x63, 0x14, 0xFF] 0xF5) = 0x0A00 := by decide +kernel
/-- V-F1: the pre-cipher block. -/
theorem test_handshake_block :
    handshakeBlock 0xD4 0x09 #v[0x00, 0x11, 0x22, 0x33, 0x44, 0x55, 0x66, 0x77] =
      #v[0xD4, 0x09, 0x00, 0x11, 0x22, 0x33, 0x00, 0x00] := by decide
/-- 43_checksum.md R164 with the body of V-K9 (sum 0x9C, XOR 0x70): markers 0x16 and 0x01, the two body
bytes ahead of the cipher block, 22 bytes with one further byte ahead. -/
theorem test_negotiation_frame : negotiationFrame ⟨[0x07], [], [], false⟩ #v[0xCC, 0xDD, 0xEE, 0xFF]
    0x00 0x01 [0x12, 0x34, 0x56] #v[1, 2, 3, 4, 5, 6, 7, 8] 0x00 =
      [0xA5, 0x16, 0x01, 0xCC, 0xDD, 0xEE, 0xFF, 0x00, 0x01, 0x07, 0x9C, 0x70, 1, 2, 3, 4, 5, 6, 7, 8,
        0x00, 0x5A] := by decide
/-- 43_checksum.md R165: the weekday is a single digit, at the end of the seven bytes. -/
theorem test_timeBytes_weekday : (timeBytes ⟨26, 1, 2, 3, 4, 5, 6⟩)[6] = 0x06 := by rfl
/-- R165: seven bytes and one more, at either end and inside. -/
theorem test_timeBlock : [0, 3, 7].map (fun p => timeBlock p 0xFF #v[1, 2, 3, 4, 5, 6, 7]) =
    [#v[0xFF, 1, 2, 3, 4, 5, 6, 7], #v[1, 2, 3, 0xFF, 4, 5, 6, 7], #v[1, 2, 3, 4, 5, 6, 7, 0xFF]] := by
  decide
/-- The bytes of 43_checksum.md R166: frame bytes 10 to 17. -/
theorem test_openResultBlock :
    openResultBlock ((List.range 18).map (BitVec.ofNat 8)) = some #v[10, 11, 12, 13, 14, 15, 16, 17] ∧
    openResultBlock ((List.range 17).map (BitVec.ofNat 8)) = none := by decide +kernel
/-- P1's first words, and a line's text (R79). -/
theorem test_ldkey_words : (AsmLine.ldkey [0x13, 0x34]).expand =
    [.txn 0xA013, .txn 0xA134, .txn 0x8302] := by decide
theorem test_text : (AsmLine.wr .keylen 0x10).text = "WR KEYLEN, 16" ∧
    readTrace .ckcpl 0xFF = "RD CKCPL -> 255" ∧
    (AsmLine.rd (.reserved 0x0B)).text = "RD 0x0B" := by decide +kernel

/-! ### Witnesses: the hypotheses of each obligation can be met -/

theorem ready_loaded : Ready loaded := ⟨rfl, by decide, by decide, rfl⟩
/-- The two ends of the key length (R113). -/
theorem ready_loaded_16 : Ready { loaded with keylen := 16 } := ⟨rfl, by decide, by decide, rfl⟩

theorem witness_DecodeEncodeRoundTrip : ∀ i ∈ [Instr.wr 0x01 0x00, .wr 0x3F 0xFF, .cmdRsvd 0x03,
    .cmdRsvd 0xFF, .rd 0x3F, .wrKey 15 0xFF, .wrDin 7 0xFF, .invalid 1 0x3FFF, .srst],
    i.wellFormed = true := by decide
theorem witness_DecodeReadsTheFields :
    (0x4000#16).getLsbD 14 = true ∧
    HostOp.txn 0x4000 ∈ ({ State.reset with program := [.poll, .txn 0x4000] } : State).program ∧
    (0x3FFF#16).getLsbD 14 = false ∧ (0x3FFF#16).getLsbD 15 = false ∧
    (0x8000#16).getLsbD 14 = false ∧ (0x8000#16).getLsbD 15 = true ∧
    (0xBFFF#16).getLsbD 14 = false ∧ (0xBFFF#16).getLsbD 15 = true := by decide
theorem witness_DecoderFollowsTablePrecedence :
    ∃ q ∈ opcodeTable, ∃ r ∈ opcodeTable, q.hits 0x8001 = true ∧ r.hits 0x8001 = true ∧
      q.weight = r.weight := ⟨⟨.ENC, 0x8001, 0xFFFF⟩, by decide, ⟨.ENC, 0x8001, 0xFFFF⟩, by decide⟩
theorem witness_OpcodeMapByHighByte :
    (0x3F#8).toNat ≤ 0x3F ∧ (0x40 ≤ (0x40#8).toNat ∧ (0x7F#8).toNat ≤ 0x7F) ∧
    0xC0 ≤ (0xC0#8).toNat ∧ 0xC0 ≤ (0xFF#8).toNat ∧
    (0x85 ≤ (0x85#8).toNat ∧ (0x89#8).toNat ≤ 0x89) ∧
    (0x8B ≤ (0x8B#8).toNat ∧ (0x8F#8).toNat ≤ 0x8F) ∧
    (0x90 ≤ (0x90#8).toNat ∧ (0x97#8).toNat ≤ 0x97) ∧
    (0x98 ≤ (0x98#8).toNat ∧ (0x9F#8).toNat ≤ 0x9F) ∧
    (0xA0 ≤ (0xA0#8).toNat ∧ (0xAF#8).toNat ≤ 0xAF) ∧
    (0xB0 ≤ (0xB0#8).toNat ∧ (0xBF#8).toNat ≤ 0xBF) := by decide
/-- The clauses of the map at both ends of each range. -/
theorem witness_OpcodeMapByHighByte_ends :
    [0x00, 0x3F, 0x40, 0x7F, 0x80, 0x81, 0x82, 0x83, 0x84, 0x85, 0x89, 0x8A, 0x8B, 0x8F].map
        (fun h : Byte => (decode (h ++ 0x03#8)).mnemonic) =
      [.RD, .RD, .INVALID, .INVALID, .CMD_RSVD, .WR, .WR, .WR_KEYLEN, .WR_DINLEN, .WR, .WR, .CKIN,
        .WR, .WR] ∧
    [0x90, 0x97, 0x98, 0x9F, 0xA0, 0xAF, 0xB0, 0xBF, 0xC0, 0xFF].map
        (fun h : Byte => (decode (h ++ 0x03#8)).mnemonic) =
      [.WR_DIN, .WR_DIN, .WR, .WR, .WR_KEY, .WR_KEY, .WR, .WR, .INVALID, .INVALID] := by decide
theorem witness_PseudoInstructionExpansions :
    ([] : List Byte).length ≤ 16 ∧ (List.replicate 16 (0xFF : Byte)).length ≤ 16 ∧
    (15 : Nat) < (List.replicate 16 (0xFF : Byte)).length ∧
    ({ pending with program := [.poll, .txn 0x8001] } : State).program = .poll :: [.txn 0x8001] ∧
    pending.resetPin = false := by decide
theorem witness_ReadReturnsTheTableValue :
    [0x00, 0x01, 0x02, 0x03, 0x04, 0x05, 0x06, 0x07, 0x08, 0x09, 0x0A, 0x0B, 0x0F].map
        (fun a => see a { failed with sum16 := 0x0180, xor8 := 0x5A }) =
      [some 0x00, some 0x1E, some 0x02, some 0x08, some 0x08, some 0x80, some 0x01, some 0x5A,
        some 0x80, some 0x7F, some 0x00, some 0x00, some 0x00] ∧
    [0x10, 0x17, 0x18, 0x1F, 0x20, 0x2F, 0x30, 0x3F].map
        (fun a => see a { loaded with dout := #v[1, 2, 3, 4, 5, 6, 7, 8] }) =
      [some 0x01, some 0xEF, some 1, some 8, some 0x00, some 0x00, some 0x00, some 0x00] := by decide
theorem witness_ReadOnlyAndReservedWritesAreIgnored : ∀ a ∈ ([0x01, 0x02, 0x05, 0x09, 0x0B, 0x0F, 0x18,
    0x1F, 0x30, 0x3F] : List Addr),
    a = 0x01 ∨ a = 0x02 ∨ (0x05 ≤ a.toNat ∧ a.toNat ≤ 0x09) ∨ (0x0B ≤ a.toNat ∧ a.toNat ≤ 0x0F) ∨
      (0x18 ≤ a.toNat ∧ a.toNat ≤ 0x1F) ∨ 0x30 ≤ a.toNat := by decide
theorem witness_InvalidWordRefusesTheProgram :
    ({ State.reset with program := [.txn 0x8000, .poll, .txn 0x7FFF, .txn 0x4000] } : State).program =
      [HostOp.txn 0x8000, .poll] ++ .txn 0x7FFF :: [.txn 0x4000] ∧
    (∀ v : Word, HostOp.txn v ∈ [HostOp.txn 0x8000, .poll] → v.getLsbD 14 = false) ∧
    (0x7FFF#16).getLsbD 14 = true := by
  refine ⟨rfl, ?_, by decide⟩
  intro v hv
  simp only [List.mem_cons, HostOp.txn.injEq, reduceCtorEq, List.not_mem_nil, or_false] at hv
  subst hv
  decide
theorem witness_IdempotentWrites : ∀ i ∈ [Instr.nop, .ckclr, .clrerr, .srst, .wrKeylen 0xFF,
    .wrDinlen 0xFF, .wrDin 7 0xFF, .wrKey 15 0xFF, .wr 0x3F 0xFF],
    i.mnemonic ∈ [.NOP, .CKCLR, .CLRERR, .SRST, .WR_KEYLEN, .WR_DINLEN, .WR_DIN, .WR_KEY, .WR] ∧
      (after (exec i pending)).isSome = true := by decide
theorem witness_ReservedCodesRaiseIllegalCommand :
    (∀ c ∈ ([0x03, 0x3F, 0x41, 0xBF, 0xC2, 0xFF] : List Byte), c ∉ [0x00, 0x01, 0x02, 0x40, 0xC0, 0xC1]) ∧
    (after (exec (.cmdRsvd 0x03) pending)).map (·.errcode) = some 0x03 ∧ pending.errcode ≠ 0x03 := by
  decide
theorem witness_OneErrorPerCommandInOrder :
    pending.pend ≠ none ∧ loaded.pend = none ∧
    ({ loaded with keylen := 7 } : State).keylen.toNat < 8 ∧
    16 < ({ loaded with keylen := 17 } : State).keylen.toNat ∧
    (8 ≤ loaded.keylen.toNat ∧ loaded.keylen.toNat ≤ 16 ∧ ({ loaded with dinlen := 7 } : State).dinlen ≠ 8 ∧
      ({ loaded with dinlen := 9 } : State).dinlen ≠ 8) ∧
    Instr.nop.mnemonic ∉ [.ENC, .DEC, .CMD_RSVD] ∧ (after (exec .nop pending)).isSome = true :=
  ⟨by decide, rfl, by decide, by decide, by decide, by decide, by decide⟩
theorem witness_ErrorsAreSticky :
    (∀ i ∈ [Instr.enc, .cmdRsvd 0xFF, .nop, .rd 0x02], (after (exec i failed)).isSome = true ∧
      failed.err = true ∧ i ≠ .clrerr ∧ i ≠ .srst) ∧
    (∀ i ∈ [Instr.cmdRsvd 0xFF, .clrerr], (after (exec i failed)).map (·.errcode) ≠
      some failed.errcode) := by decide
/-- The reset input asserted over a program, and the two hypotheses on it. -/
def heldInReset : State := { State.reset with program := [.txn 0x8001, .poll], resetPin := true }
theorem witness_BothResetsGiveTheResetState :
    heldInReset.resetPin = true ∧ ∃ t, hostTurn heldInReset = .next t := ⟨rfl, _, rfl⟩
theorem witness_TransactionsAreLostInReset :
    heldInReset.resetPin = true ∧ heldInReset.program = .txn 0x8001 :: [.poll] ∧
    ({ heldInReset with program := [.poll] } : State).program = .poll :: [] ∧
    ValidProgram { pending with schedule := [.resetAssert] } ∧
    ({ pending with schedule := [.resetAssert] } : State).schedule = .resetAssert :: [] :=
  ⟨rfl, rfl, rfl, rfl, rfl⟩
theorem witness_SoftResetGivesTheResetState : ∃ u, takeTurn .resetAssert pending = .next u := ⟨_, rfl⟩
theorem witness_ReadsRightAfterReset :
    (∃ t, exec .srst pending = .next t) ∧ ∃ t, takeTurn .resetAssert pending = .next t :=
  ⟨⟨_, rfl⟩, _, rfl⟩
theorem witness_ChecksumAndComplementBytes :
    ∃ t, execAll (.ckclr :: ([0xFF, 0x01] : List Byte).map .ckin) failed = .next t := ⟨_, rfl⟩
theorem witness_EvenStreamsCancelInXor :
    (∃ t, execAll (.ckclr :: ([0xA5, 0x5A, 0xA5, 0x5A] : List Byte).map .ckin) pending = .next t) ∧
    (∀ b : Byte, Even (([0xA5, 0x5A, 0xA5, 0x5A] : List Byte).count b)) ∧
    ∃ t, execAll (.ckclr :: ([] : List Byte).map .ckin) pending = .next t :=
  ⟨⟨_, rfl⟩, by decide, _, rfl⟩
theorem witness_AbsorbOrderDoesNotMatter : ([0x12, 0x34, 0x56] : List Byte).Perm [0x56, 0x34, 0x12] := by
  decide
theorem witness_ChecksumByteCompletesTheSum :
    ∃ t, execAll (.ckclr :: ([0x12, 0x34, 0x56] : List Byte).map .ckin) State.reset = .next t := ⟨_, rfl⟩
theorem witness_FrameChecksumProcedures : 2 ≤ ([0x00, 0x5A] : List Byte).length := by decide
theorem witness_UnitsAreIndependent :
    (∃ t, exec (.rd 0x05) pending = .next t) ∧ (Instr.rd 0x05).mnemonic ∉ [.CKIN, .CKCLR, .SRST] ∧
    (∃ t, exec .enc loaded = .next t) ∧ (∃ t, exec .dec loaded = .next t) ∧ pending.pend ≠ none :=
  ⟨⟨_, rfl⟩, by decide, ⟨_, rfl⟩, ⟨_, rfl⟩, by decide⟩
theorem witness_AcceptanceLatchesTheOperands : Ready loaded ∧ pending.pend = some op ∧
    (∃ t, exec (.wrKey 0 0xFF) pending = .next t) ∧ Instr.wrKey 0 0xFF ≠ .srst :=
  ⟨ready_loaded, rfl, ⟨_, rfl⟩, by decide⟩
theorem witness_ByteOrderOfTheCipher : Ready { loaded with keylen := 16 } ∧ 1 ≤ 8 ∧ 8 ≤ 8 :=
  ⟨ready_loaded_16, by decide, by decide⟩
theorem witness_CompletionStep : pending.pend = some op ∧ loaded.pend = none ∧
    ValidProgram { pending with program := [.poll], schedule := [.engine, .host] } ∧
    ({ pending with schedule := [.engine, .host] } : State).schedule = .engine :: [.host] :=
  ⟨rfl, rfl, rfl, rfl⟩
/-- P5's state at its second `ENC`, under each of the two placements. -/
def secondEnc (l : List Turn) : State := { pending with program := [.txn 0x8001], schedule := l }
theorem witness_BothOrdersOfCompletionAreRuns (l : List Turn) :
    (secondEnc l).pend = some op ∧ (secondEnc l).resetPin = false ∧
    Ready { secondEnc l with pend := none } ∧ (secondEnc l).program = [.txn 0x8001] ∧
    (secondEnc l).schedule = l :=
  ⟨rfl, rfl, ⟨rfl, by show 8 ≤ (8#8).toNat; decide, by show (8#8).toNat ≤ 16; decide, rfl⟩, rfl, rfl⟩
/-- Both clauses: a completion, and a reset after it, change `DOUT`. -/
theorem witness_DoutChangesOnlyByCompletionOrReset :
    (after (step { pending with schedule := [.engine] })).map (·.dout) ≠ some pending.dout ∧
    (after (step { loaded with dout := Vector.replicate 8 0xFF, schedule := [.resetAssert] })).map
      (·.dout) ≠ some (Vector.replicate 8 0xFF) := by decide +kernel
theorem witness_WritersOfTheFlags :
    (after (exec .enc loaded)).map (·.pend.isSome) ≠ some loaded.pend.isSome ∧
    (after (exec .enc { failed with keylen := 7 })).map (·.done) ≠ some failed.done ∧
    (after (exec .clrerr failed)).map (·.err) ≠ some failed.err ∧
    (after (exec (.wrKeylen 17) loaded)).map keyok ≠ some (keyok loaded) ∧
    (after (exec (.wrDinlen 7) loaded)).map blkok ≠ some (blkok loaded) ∧ pending.pend ≠ none := by
  decide
theorem witness_DoneTellsTheOutcome : loaded.pend = none := rfl
theorem witness_DoneTellsTheOutcome_both :
    (after (exec .enc loaded)).map (fun t => (complete t).done) = some true ∧
    (after (exec .enc { loaded with keylen := 7 })).map (fun t => (complete t).done) = some false := by
  decide +kernel
theorem witness_EncryptionRoundTrip : Ready loaded := ready_loaded
/-- V-C3: a 16-byte key with the same head. -/
def longKey : State :=
  { loaded with
    key := #v[0x13, 0x34, 0x57, 0x79, 0x9B, 0xBC, 0xDF, 0xF1, 0x00, 0x11, 0x22, 0x33, 0x44, 0x55,
      0x66, 0x77]
    keylen := 16 }
theorem witness_ResultDependsOnKeyHeadAndBlock : Ready loaded ∧ Ready longKey ∧
    (∀ i : Fin 8, loaded.key[i.val] = longKey.key[i.val]) ∧ loaded.din = longKey.din :=
  ⟨ready_loaded, ⟨rfl, by decide, by decide, rfl⟩, by decide, rfl⟩
/-- Two states that differ, and only in `KEY[8..15]`; a step of theirs, and a refusal. -/
theorem witness_HighKeyBytesAreNeverObserved :
    SameButHighKey loaded { longKey with keylen := 8 } ∧ loaded ≠ { longKey with keylen := 8 } ∧
    (∃ t, step loaded = .next t) ∧
    ∃ r, step { loaded with program := [.txn 0x4000] } = .refused r :=
  ⟨⟨rfl, by decide⟩, by decide, ⟨_, rfl⟩, _, rfl⟩

/-- The rounds of R118 as sequences, from a start and a list of subkeys. -/
def halves (k : Nat → BitVec 48) (l r : BitVec 32) : Nat → BitVec 32 × BitVec 32
  | 0 => (l, r)
  | i + 1 => ((halves k l r i).2, (halves k l r i).1 ^^^ feistel (halves k l r i).2 (k i))
theorem witness_DesEncFollowsTheRounds (k p : BitVec 64) : ∃ L R : Nat → BitVec 32,
    L 0 = (permute ipTable p).extractLsb' 32 32 ∧ R 0 = (permute ipTable p).extractLsb' 0 32 ∧
    ∀ i : Nat, i < 16 → L (i + 1) = R i ∧
      R (i + 1) = L i ^^^ feistel (R i) ((keySchedule k).getD i 0) :=
  ⟨fun i => (halves (fun i => (keySchedule k).getD i 0) _ _ i).1,
    fun i => (halves (fun i => (keySchedule k).getD i 0) _ _ i).2, rfl, rfl, fun _ _ => ⟨rfl, rfl⟩⟩
theorem witness_DesDecReversesTheSubkeys (k c : BitVec 64) : ∃ L R : Nat → BitVec 32,
    L 0 = (permute ipTable c).extractLsb' 32 32 ∧ R 0 = (permute ipTable c).extractLsb' 0 32 ∧
    ∀ i : Nat, i < 16 → L (i + 1) = R i ∧
      R (i + 1) = L i ^^^ feistel (R i) ((keySchedule k).getD (15 - i) 0) :=
  ⟨fun i => (halves (fun i => (keySchedule k).getD (15 - i) 0) _ _ i).1,
    fun i => (halves (fun i => (keySchedule k).getD (15 - i) 0) _ _ i).2, rfl, rfl,
    fun _ _ => ⟨rfl, rfl⟩⟩
/-- A half of the key under the shifts of R144. -/
def rotated (c : BitVec 28) : Nat → BitVec 28
  | 0 => c
  | i + 1 => rotl28 (rotated c i) ([1, 1, 2, 2, 2, 2, 2, 2, 1, 2, 2, 2, 2, 2, 2, 1].getD i 0)
theorem witness_KeyScheduleFollowsTheRotations (k : BitVec 64) : (28 : Nat) ≤ 28 ∧
    (57 ∈ pc1Table.toList) ∧ ∃ C D : Nat → BitVec 28,
    C 0 = (permute pc1Table k).extractLsb' 28 28 ∧ D 0 = (permute pc1Table k).extractLsb' 0 28 ∧
    ∀ i : Nat, i < 16 →
      C (i + 1) = rotl28 (C i) ([1, 1, 2, 2, 2, 2, 2, 2, 1, 2, 2, 2, 2, 2, 2, 1].getD i 0) ∧
      D (i + 1) = rotl28 (D i) ([1, 1, 2, 2, 2, 2, 2, 2, 1, 2, 2, 2, 2, 2, 2, 1].getD i 0) :=
  ⟨le_rfl, by decide, rotated _, rotated _, rfl, rfl, fun _ _ => ⟨rfl, rfl⟩⟩
theorem witness_RoundFunctionBySBoxes :
    [s1, s2, s3, s4, s5, s6, s7, s8][0]? = some s1 ∧ [s1, s2, s3, s4, s5, s6, s7, s8][7]? = some s8 :=
  ⟨rfl, rfl⟩
/-- V-C1 and V-C4: two keys that differ in parity bits only. -/
theorem witness_KeyParityIsIgnored : (0x133457799BBCDFF1#64) ≠ 0x123456789ABCDEF0#64 ∧
    ∀ i : Nat, i % 8 ≠ 0 → (0x133457799BBCDFF1#64).getLsbD i = (0x123456789ABCDEF0#64).getLsbD i := by
  refine ⟨by decide, fun i hi => ?_⟩
  by_cases h : i < 64
  · revert hi
    revert h
    revert i
    decide
  · rw [BitVec.getLsbD_of_ge _ _ (by omega), BitVec.getLsbD_of_ge _ _ (by omega)]
theorem witness_WeakKeysAreAccepted : Ready loaded ∧ Ready { loaded with keylen := 16 } :=
  ⟨ready_loaded, ready_loaded_16⟩
theorem witness_StepRunsTheDecodedTransaction :
    ValidProgram { loaded with program := [.txn 0x8001, .poll] } ∧
    ({ loaded with program := [.txn 0x8001, .poll] } : State).program = .txn 0x8001 :: [.poll] ∧
    loaded.resetPin = false ∧ ({ loaded with schedule := [.host] } : State).schedule = .host :: [] ∧
    loaded.schedule = [] ∧ loaded.pend = none := ⟨rfl, rfl, rfl, rfl, rfl, rfl⟩
theorem witness_IdleBlockWaits : loaded.pend = none ∧ loaded.program = [] ∧ loaded.schedule = [] :=
  ⟨rfl, rfl, rfl⟩
theorem witness_ValidProgramsNeverStop :
    ValidProgram { pending with program := [.poll, .txn 0xBFFF], schedule := [.host, .resetAssert] } :=
  rfl
theorem witness_StepKeepsLegal : Legal pending ∧ ∃ t, step pending = .next t :=
  ⟨⟨by decide, by decide, fun _ => rfl, fun h => absurd h (by decide)⟩, _, rfl⟩
theorem witness_ResetIsLegal : ∃ t, exec .srst pending = .next t := ⟨_, rfl⟩
theorem witness_PendingOperationEnds :
    ValidProgram { pending with program := [.poll], schedule := [.host, .host] } := rfl
theorem witness_PollLoopEnds :
    ValidProgram { pending with program := [.poll], schedule := [.host, .engine] } ∧
    ({ pending with program := [.poll] } : State).program = .poll :: [] ∧ pending.resetPin = false ∧
    Turn.resetAssert ∉ [Turn.host, .engine] := ⟨rfl, rfl, rfl, by decide⟩
theorem witness_LoadLinesLoadTheOperands : (List.replicate 16 (0xFF : Byte)).length ≤ 16 := by decide
theorem witness_NegotiationFrameCarriesTheBodyBytes :
    (⟨[0x07], [], [], false⟩ : AheadLayout).before.length +
      (⟨[0x07], [], [], false⟩ : AheadLayout).between.length +
      (⟨[0x07], [], [], false⟩ : AheadLayout).after.length = 1 ∧
    (⟨[], [], [0x07], true⟩ : AheadLayout).before.length +
      (⟨[], [], [0x07], true⟩ : AheadLayout).between.length +
      (⟨[], [], [0x07], true⟩ : AheadLayout).after.length = 1 := by decide
theorem witness_TimeSyncEnciphersUnderTheSessionKey : failed.pend = none := rfl

end Sys2Proof.Tests
end

section
/-! SUPPORT. The writers of the flags (10_state.md R41): which transaction can change each flag, and
what the engine's completion does to them. -/

namespace Sys2Proof.Machine

/-- A cipher command, rejected or accepted, leaves `KEYLEN` and so `KEYOK` alone. -/
@[simp] theorem keyok_startCipher (d : Dir) (s : State) : keyok (startCipher d s) = keyok s := by
  obtain ⟨-, h⟩ | ⟨-, -, h⟩ | ⟨-, -, -, h⟩ | ⟨-, -, -, h⟩ := startCipher_cases d s <;> rw [h] <;> rfl

/-- A cipher command, rejected or accepted, leaves `DINLEN` and so `BLKOK` alone. -/
@[simp] theorem blkok_startCipher (d : Dir) (s : State) : blkok (startCipher d s) = blkok s := by
  obtain ⟨-, h⟩ | ⟨-, -, h⟩ | ⟨-, -, -, h⟩ | ⟨-, -, -, h⟩ := startCipher_cases d s <;> rw [h] <;> rfl

/-- R41 for the transactions, row by row: a flag the row writes is in that flag's list, and every
other flag is kept. -/
theorem exec_flag_writers (i : Instr) (s t : State) (h : exec i s = .next t) :
    (t.pend.isSome ≠ s.pend.isSome → i.mnemonic ∈ [.ENC, .DEC, .SRST]) ∧
    (t.done ≠ s.done → i.mnemonic ∈ [.ENC, .DEC, .SRST]) ∧
    (t.err ≠ s.err → i.mnemonic ∈ [.ENC, .DEC, .CMD_RSVD, .CLRERR, .SRST]) ∧
    (keyok t ≠ keyok s → i.mnemonic ∈ [.WR_KEYLEN, .SRST]) ∧
    (blkok t ≠ blkok s → i.mnemonic ∈ [.WR_DINLEN, .SRST]) := by
  cases i with
  | invalid top low => cases h
  | rd | wr | wrKey | wrDin | ckin | nop | ckclr =>
    cases h
    exact ⟨absurd rfl, absurd rfl, absurd rfl, absurd rfl, absurd rfl⟩
  | wrKeylen d =>
    cases h
    exact ⟨absurd rfl, absurd rfl, absurd rfl, fun _ => by simp [Instr.mnemonic], absurd rfl⟩
  | wrDinlen d =>
    cases h
    exact ⟨absurd rfl, absurd rfl, absurd rfl, absurd rfl, fun _ => by simp [Instr.mnemonic]⟩
  | cmdRsvd c =>
    cases h
    exact ⟨absurd rfl, absurd rfl, fun _ => by simp [Instr.mnemonic], absurd rfl, absurd rfl⟩
  | clrerr =>
    cases h
    exact ⟨absurd rfl, absurd rfl, fun _ => by decide, absurd rfl, absurd rfl⟩
  | enc | dec =>
    cases h
    exact ⟨fun _ => by decide, fun _ => by decide, fun _ => by decide,
      absurd (keyok_startCipher _ s), absurd (blkok_startCipher _ s)⟩
  | srst =>
    exact ⟨fun _ => by decide, fun _ => by decide, fun _ => by decide, fun _ => by decide,
      fun _ => by decide⟩

/-- A completion, enabled or not, keeps `ERR`, `KEYOK` and `BLKOK` (41_cipher.md R117). -/
theorem complete_keeps_err_keyok_blkok (s : State) :
    (complete s).err = s.err ∧ keyok (complete s) = keyok s ∧ blkok (complete s) = blkok s := by
  cases hp : s.pend with
  | none => rw [complete_none s hp]; exact ⟨rfl, rfl, rfl⟩
  | some p => rw [complete_some s p hp]; exact ⟨rfl, rfl, rfl⟩

/-- An enabled completion sets `DONE` and leaves nothing pending (41_cipher.md R117). -/
theorem complete_done_pend (s : State) (h : s.pend ≠ none) :
    (complete s).done = true ∧ (complete s).pend = none := by
  obtain ⟨p, hp⟩ := Option.ne_none_iff_exists'.mp h
  rw [complete_some s p hp]
  exact ⟨rfl, rfl⟩

/-- Settles O38: the transactions row by row, then the engine's completion. -/
theorem writersOfTheFlags : Obligations.WritersOfTheFlags := by
  refine ⟨exec_flag_writers, fun s => ?_⟩
  obtain ⟨herr, hkey, hblk⟩ := complete_keeps_err_keyok_blkok s
  exact ⟨herr, hkey, hblk, complete_done_pend s⟩

end Sys2Proof.Machine
end

section
/-! SUPPORT. The decoder and the encoder, said once (30_encoding.md R71 to R78): the three kinds of
word, the row of a write by its address, and a word from its two bytes. -/

namespace Sys2Proof

/-! ### The three kinds of word -/

section
variable {w : Word}

theorem decode_of_bit14 (h14 : w.getLsbD 14 = true) :
    decode w = .invalid (w.extractLsb' 15 1) (w.extractLsb' 0 14) := by
  simp only [decode, h14, if_true]

theorem decode_of_read (h14 : w.getLsbD 14 = false) (h15 : w.getLsbD 15 = false) :
    decode w = .rd (w.extractLsb' 8 6) := by
  simp only [decode, h14, h15, Bool.false_eq_true, if_false]

theorem decode_of_write (h14 : w.getLsbD 14 = false) (h15 : w.getLsbD 15 = true) :
    decode w = decodeWrite (w.extractLsb' 8 6) (w.extractLsb' 0 8) := by
  simp only [decode, h14, h15, Bool.false_eq_true, if_false, if_true]

/-- No bit of an `INVALID` word is lost (R72). -/
theorem encode_invalid_fields (h14 : w.getLsbD 14 = true) :
    encode (.invalid (w.extractLsb' 15 1) (w.extractLsb' 0 14)) = w := by
  apply BitVec.eq_of_getLsbD_eq
  intro i hi
  simp only [encode, BitVec.getLsbD_append]
  interval_cases i <;> simp_all

/-- No bit of a write's word is lost (R71). -/
theorem writeWord_fields (h14 : w.getLsbD 14 = false) (h15 : w.getLsbD 15 = true) :
    writeWord (w.extractLsb' 8 6) (w.extractLsb' 0 8) = w := by
  apply BitVec.eq_of_getLsbD_eq
  intro i hi
  simp only [writeWord, busWord, BitVec.getLsbD_append]
  interval_cases i <;> simp_all

end

/-! ### The row of a write -/

/-- The address map (10_state.md R24) read both ways gives back every address. -/
@[simp] theorem Reg.addr_ofAddr : ∀ a : Addr, (Reg.ofAddr a).addr = a := by decide

/-- The addresses of 40_bus_access.md R99 as ranges. -/
theorem writeIgnored_iff (a : Addr) : writeIgnored a = true ↔
    a.toNat = 0x01 ∨ a.toNat = 0x02 ∨ (0x05 ≤ a.toNat ∧ a.toNat ≤ 0x09) ∨
      (0x0B ≤ a.toNat ∧ a.toNat ≤ 0x0F) ∨ (0x18 ≤ a.toNat ∧ a.toNat ≤ 0x1F) ∨ 0x30 ≤ a.toNat := by
  simp [writeIgnored, or_assoc]

@[simp] theorem writeIgnored_addr_din : ∀ i : Fin 8, writeIgnored (Reg.din i).addr = false := by
  decide
@[simp] theorem writeIgnored_addr_key : ∀ i : Fin 16, writeIgnored (Reg.key i).addr = false := by
  decide

/-- Each address is a register's that has a row of its own, or one of R99 (R78). -/
theorem addr_cases : ∀ a : Addr, a = 0x00 ∨ a = 0x03 ∨ a = 0x04 ∨ a = 0x0A ∨
    (∃ i : Fin 8, a = (Reg.din i).addr) ∨ (∃ i : Fin 16, a = (Reg.key i).addr) ∨
    writeIgnored a = true := by decide

/-- A command byte is one of the six defined codes or reserved (R74, R75). -/
theorem decodeCommand_cases (d : Byte) :
    (d = 0x00 ∧ decodeCommand d = .nop) ∨ (d = 0x01 ∧ decodeCommand d = .enc) ∨
    (d = 0x02 ∧ decodeCommand d = .dec) ∨ (d = 0x40 ∧ decodeCommand d = .ckclr) ∨
    (d = 0xC0 ∧ decodeCommand d = .clrerr) ∨ (d = 0xC1 ∧ decodeCommand d = .srst) ∨
    (definedCode d = false ∧ decodeCommand d = .cmdRsvd d) := by
  unfold decodeCommand
  split <;> simp_all [definedCode]

/-- A command is of a command row, and one of its words spells it (R74, R75; 44_control.md R183). -/
theorem decodeCommand_row (d : Byte) :
    (decodeCommand d).mnemonic ∈ [.NOP, .ENC, .DEC, .CKCLR, .CLRERR, .SRST, .CMD_RSVD] ∧
      (decodeCommand d).wellFormed = true := by
  obtain ⟨-, h⟩ | ⟨-, h⟩ | ⟨-, h⟩ | ⟨-, h⟩ | ⟨-, h⟩ | ⟨-, h⟩ | ⟨hd, h⟩ :=
    decodeCommand_cases d <;> rw [h]
  case inr.inr.inr.inr.inr.inr =>
    exact ⟨by simp [Instr.mnemonic], by rw [Instr.wellFormed, hd]; rfl⟩
  all_goals decide

@[simp] theorem decodeWrite_din (i : Fin 8) (d : Byte) :
    decodeWrite (Reg.din i).addr d = .wrDin i d := by
  have hr : ∀ i : Fin 8, Reg.ofAddr (Reg.din i).addr = .din i := by decide
  simp only [decodeWrite, hr]

@[simp] theorem decodeWrite_key (i : Fin 16) (d : Byte) :
    decodeWrite (Reg.key i).addr d = .wrKey i d := by
  have hr : ∀ i : Fin 16, Reg.ofAddr (Reg.key i).addr = .key i := by decide
  simp only [decodeWrite, hr]

/-- No register with a row of its own is at an address of R99. -/
theorem decodeWrite_ignored (a : Addr) (d : Byte) (h : writeIgnored a = true) :
    decodeWrite a d = .wr a d := by
  rw [← Reg.addr_ofAddr a] at h
  cases hr : Reg.ofAddr a with
  | cmd | keylen | dinlen | ckIn => rw [hr] at h; exact absurd h (by decide)
  | din i => rw [hr, writeIgnored_addr_din] at h; cases h
  | key i => rw [hr, writeIgnored_addr_key] at h; cases h
  | status | errcode | sumLo | sumHi | ckxor | ckchk | ckcpl | dout i | reserved b =>
    simp only [decodeWrite, hr]

/-- Everything a write can be (R78). -/
theorem decodeWrite_cases (a : Addr) (d : Byte) :
    (a = 0x00 ∧ decodeWrite a d = decodeCommand d) ∨ (a = 0x03 ∧ decodeWrite a d = .wrKeylen d) ∨
    (a = 0x04 ∧ decodeWrite a d = .wrDinlen d) ∨ (a = 0x0A ∧ decodeWrite a d = .ckin d) ∨
    (∃ i : Fin 8, a = (Reg.din i).addr ∧ decodeWrite a d = .wrDin i d) ∨
    (∃ i : Fin 16, a = (Reg.key i).addr ∧ decodeWrite a d = .wrKey i d) ∨
    (writeIgnored a = true ∧ decodeWrite a d = .wr a d) := by
  obtain rfl | rfl | rfl | rfl | ⟨i, rfl⟩ | ⟨i, rfl⟩ | h := addr_cases a
  · exact .inl ⟨rfl, rfl⟩
  · exact .inr (.inl ⟨rfl, rfl⟩)
  · exact .inr (.inr (.inl ⟨rfl, rfl⟩))
  · exact .inr (.inr (.inr (.inl ⟨rfl, rfl⟩)))
  · exact .inr (.inr (.inr (.inr (.inl ⟨i, rfl, decodeWrite_din i d⟩))))
  · exact .inr (.inr (.inr (.inr (.inr (.inl ⟨i, rfl, decodeWrite_key i d⟩)))))
  · exact .inr (.inr (.inr (.inr (.inr (.inr ⟨h, decodeWrite_ignored a d h⟩)))))

/-- Encoding what a write decodes to gives the write's word back. -/
theorem encode_decodeWrite (a : Addr) (d : Byte) : encode (decodeWrite a d) = writeWord a d := by
  obtain ⟨rfl, h⟩ | ⟨rfl, h⟩ | ⟨rfl, h⟩ | ⟨rfl, h⟩ | ⟨i, rfl, h⟩ | ⟨i, rfl, h⟩ | ⟨-, h⟩ :=
    decodeWrite_cases a d <;> rw [h]
  · obtain ⟨rfl, h⟩ | ⟨rfl, h⟩ | ⟨rfl, h⟩ | ⟨rfl, h⟩ | ⟨rfl, h⟩ | ⟨rfl, h⟩ | ⟨-, h⟩ :=
      decodeCommand_cases d <;> rw [h] <;> rfl
  · rfl
  · rfl
  · rfl
  · have hi : ∀ i : Fin 8, 0x12#5 ++ BitVec.ofFin (w := 3) i = 1#1 ++ 0#1 ++ (Reg.din i).addr := by
      decide
    exact congrArg (· ++ d) (hi i)
  · have hi : ∀ i : Fin 16, 0xA#4 ++ BitVec.ofFin (w := 4) i = 1#1 ++ 0#1 ++ (Reg.key i).addr := by
      decide
    exact congrArg (· ++ d) (hi i)
  · rfl

/-- A write decodes to a term that its word spells, neither `INVALID` nor a read (R72, R77). -/
theorem decodeWrite_wellFormed (a : Addr) (d : Byte) :
    (decodeWrite a d).mnemonic ≠ .INVALID ∧ (decodeWrite a d).mnemonic ≠ .RD ∧
      (decodeWrite a d).wellFormed = true := by
  obtain ⟨-, h⟩ | ⟨-, h⟩ | ⟨-, h⟩ | ⟨-, h⟩ | ⟨i, -, h⟩ | ⟨i, -, h⟩ | ⟨hi, h⟩ :=
    decodeWrite_cases a d <;> rw [h]
  · obtain ⟨hrow, hwf⟩ := decodeCommand_row d
    exact ⟨fun h => by simp [h] at hrow, fun h => by simp [h] at hrow, hwf⟩
  · exact ⟨nofun, nofun, rfl⟩
  · exact ⟨nofun, nofun, rfl⟩
  · exact ⟨nofun, nofun, rfl⟩
  · exact ⟨nofun, nofun, rfl⟩
  · exact ⟨nofun, nofun, rfl⟩
  · exact ⟨nofun, nofun, hi⟩

/-- The generic `WR` row is the writes to the addresses of R99, and no others (R77). -/
theorem mnemonic_decodeWrite_eq_WR_iff (a : Addr) (d : Byte) :
    (decodeWrite a d).mnemonic = .WR ↔ writeIgnored a = true := by
  refine ⟨fun hm => ?_, fun h => by rw [decodeWrite_ignored a d h]; rfl⟩
  obtain ⟨-, h⟩ | ⟨-, h⟩ | ⟨-, h⟩ | ⟨-, h⟩ | ⟨i, -, h⟩ | ⟨i, -, h⟩ | ⟨hi, h⟩ :=
    decodeWrite_cases a d <;> rw [h] at hm
  · have hrow := (decodeCommand_row d).1
    simp [hm] at hrow
  · cases hm
  · cases hm
  · cases hm
  · cases hm
  · cases hm
  · exact hi

end Sys2Proof
end

section
/-! SUPPORT. Every word has its fields (30_encoding.md R72). -/

namespace Sys2Proof

open Sys2Proof.Machine

/-- A program that holds an `INVALID` word is refused (40_bus_access.md R101). -/
theorem step_refused_of_bit14 {w : Word} (h14 : w.getLsbD 14 = true) (s : State)
    (hw : HostOp.txn w ∈ s.program) : ∃ n v, step s = .refused (.invalidWord n v) := by
  have hne : invalidFrom 0 s.program ≠ none := fun h => by
    rw [(invalidFrom_eq_none_iff 0 s.program).mp h w hw] at h14
    cases h14
  obtain ⟨⟨n, v⟩, hnv⟩ := Option.ne_none_iff_exists'.mp hne
  exact ⟨n, v, by rw [step, hnv]⟩

/-- Settles O2, kind by kind: `INVALID` words, reads and writes. -/
theorem decodeReadsTheFields : Obligations.DecodeReadsTheFields := by
  refine fun w => ⟨fun h14 => ?_, decode_of_read, fun h14 h15 => ?_⟩
  · rw [decode_of_bit14 h14]
    exact ⟨rfl, encode_invalid_fields h14, step_refused_of_bit14 h14⟩
  · have hdec := decode_of_write h14 h15
    obtain ⟨hinv, hrd, hwf⟩ := decodeWrite_wellFormed (w.extractLsb' 8 6) (w.extractLsb' 0 8)
    rw [hdec]
    exact ⟨rfl, hinv, hrd, hwf, (encode_decodeWrite _ _).trans (writeWord_fields h14 h15)⟩

end Sys2Proof
end

section
/-! SUPPORT. The opcode map by the high byte of the word (30_encoding.md R78). -/

namespace Sys2Proof

section
variable {h d : Byte}

/-- A bit of a word's high byte, from that byte's number. -/
theorem getLsbD_append_high {i : Nat} (hi : 8 ≤ i) :
    (h ++ d).getLsbD i = decide (h.toNat / 2 ^ (i - 8) % 2 = 1) := by
  rw [BitVec.getLsbD_append, if_neg (by omega), BitVec.getLsbD, Nat.testBit_eq_decide_div_mod_eq]

theorem bit15_append : (h ++ d).getLsbD 15 = decide (0x80 ≤ h.toNat) := by
  have hlt := h.isLt
  rw [getLsbD_append_high (by decide), decide_eq_decide]
  omega

theorem bit14_append : (h ++ d).getLsbD 14 = decide (0x40 ≤ h.toNat % 0x80) := by
  rw [getLsbD_append_high (by decide), decide_eq_decide]
  omega

/-- The high bytes of reads. -/
theorem mnemonic_append_read (hh : h.toNat ≤ 0x3F) : (decode (h ++ d)).mnemonic = .RD := by
  rw [decode_of_read]
  · rfl
  · rw [bit14_append, decide_eq_false_iff_not]; omega
  · rw [bit15_append, decide_eq_false_iff_not]; omega

/-- The high bytes of `INVALID` words. -/
theorem mnemonic_append_invalid (hh : (0x40 ≤ h.toNat ∧ h.toNat ≤ 0x7F) ∨ 0xC0 ≤ h.toNat) :
    (decode (h ++ d)).mnemonic = .INVALID := by
  have hlt := h.isLt
  rw [decode_of_bit14]
  · rfl
  · rw [bit14_append, decide_eq_true_eq]; omega

/-- A high byte of the write map is a register's address, counted from 0x80. -/
theorem decode_append_write (hlo : 0x80 ≤ h.toNat) (hhi : h.toNat ≤ 0xBF) :
    ∃ a : Addr, h.toNat = 0x80 + a.toNat ∧ decode (h ++ d) = decodeWrite a d := by
  refine ⟨(h ++ d).extractLsb' 8 6, ?_, ?_⟩
  · rw [BitVec.extractLsb'_toNat, BitVec.toNat_append, Nat.shiftRight_or_distrib,
      Nat.shiftLeft_shiftRight, Nat.shiftRight_eq_zero _ _ d.isLt, Nat.or_zero]
    omega
  · rw [decode_of_write, BitVec.extractLsb'_append_eq_right]
    · rw [bit14_append, decide_eq_false_iff_not]; omega
    · rw [bit15_append, decide_eq_true_eq]; omega

/-- The command rows of the map (R74, R78). -/
theorem mnemonic_decodeCommand : (decodeCommand d).mnemonic =
    if d = 0x00 then .NOP else if d = 0x01 then .ENC else if d = 0x02 then .DEC
    else if d = 0x40 then .CKCLR else if d = 0xC0 then .CLRERR else if d = 0xC1 then .SRST
    else .CMD_RSVD := by
  obtain ⟨rfl, -⟩ | ⟨rfl, -⟩ | ⟨rfl, -⟩ | ⟨rfl, -⟩ | ⟨rfl, -⟩ | ⟨rfl, -⟩ | ⟨hd, hdec⟩ :=
    decodeCommand_cases d
  case inr.inr.inr.inr.inr.inr =>
    rw [hdec]
    simp_all [definedCode, Instr.mnemonic]
  all_goals rfl

/-- The generic row of the map: the high bytes that stand for the addresses of
40_bus_access.md R99. -/
theorem mnemonic_append_ignored (hh : h.toNat = 0x81 ∨ h.toNat = 0x82 ∨
    (0x85 ≤ h.toNat ∧ h.toNat ≤ 0x89) ∨ (0x8B ≤ h.toNat ∧ h.toNat ≤ 0x8F) ∨
    (0x98 ≤ h.toNat ∧ h.toNat ≤ 0x9F) ∨ (0xB0 ≤ h.toNat ∧ h.toNat ≤ 0xBF)) :
    (decode (h ++ d)).mnemonic = .WR := by
  obtain ⟨a, ha, hdec⟩ := decode_append_write (h := h) (d := d) (by omega) (by omega)
  rw [hdec, mnemonic_decodeWrite_eq_WR_iff, writeIgnored_iff]
  omega

/-- The `DIN` row of the map. -/
theorem mnemonic_append_din (hlo : 0x90 ≤ h.toNat) (hhi : h.toNat ≤ 0x97) :
    (decode (h ++ d)).mnemonic = .WR_DIN := by
  obtain ⟨a, ha, hdec⟩ := decode_append_write (h := h) (d := d) (by omega) (by omega)
  have hreg : ∀ a : Addr, 0x10 ≤ a.toNat → a.toNat ≤ 0x17 → ∃ i : Fin 8, a = (Reg.din i).addr := by
    decide
  obtain ⟨i, rfl⟩ := hreg a (by omega) (by omega)
  rw [hdec, decodeWrite_din]
  rfl

/-- The `KEY` row of the map. -/
theorem mnemonic_append_key (hlo : 0xA0 ≤ h.toNat) (hhi : h.toNat ≤ 0xAF) :
    (decode (h ++ d)).mnemonic = .WR_KEY := by
  obtain ⟨a, ha, hdec⟩ := decode_append_write (h := h) (d := d) (by omega) (by omega)
  have hreg : ∀ a : Addr, 0x20 ≤ a.toNat → a.toNat ≤ 0x2F → ∃ i : Fin 16, a = (Reg.key i).addr := by
    decide
  obtain ⟨i, rfl⟩ := hreg a (by omega) (by omega)
  rw [hdec, decodeWrite_key]
  rfl

end

/-- The high byte of a write's word (R71). -/
theorem toNat_writeHighByte (a : Addr) : (1#1 ++ 0#1 ++ a).toNat = 0x80 + a.toNat := by
  revert a; decide

/-- A write's word decodes to the row of its address and data (R71, R78). -/
@[simp] theorem decode_writeWord (a : Addr) (d : Byte) :
    decode (writeWord a d) = decodeWrite a d := by
  have ha := toNat_writeHighByte a
  have hlt := a.isLt
  obtain ⟨b, hb, hdec⟩ := decode_append_write (h := 1#1 ++ 0#1 ++ a) (d := d) (by omega) (by omega)
  rw [show b = a from BitVec.eq_of_toNat_eq (by omega)] at hdec
  exact hdec

/-- Settles O4, range by range of the high byte. -/
theorem opcodeMapByHighByte : Obligations.OpcodeMapByHighByte := by
  refine fun h d => ⟨mnemonic_append_read, mnemonic_append_invalid, ?cmd, ?status, ?keylen, ?dinlen,
    fun hh => mnemonic_append_ignored (by omega), ?ckIn,
    fun hh => mnemonic_append_ignored (by omega), fun hh => mnemonic_append_din hh.1 hh.2,
    fun hh => mnemonic_append_ignored (by omega), fun hh => mnemonic_append_key hh.1 hh.2,
    fun hh => mnemonic_append_ignored (by omega)⟩
  case cmd =>
    rintro rfl
    exact (congrArg Instr.mnemonic (decode_writeWord 0x00 d)).trans mnemonic_decodeCommand
  case status => rintro (rfl | rfl) <;> exact mnemonic_append_ignored (by decide)
  case keylen => rintro rfl; exact congrArg Instr.mnemonic (decode_writeWord 0x03 d)
  case dinlen => rintro rfl; exact congrArg Instr.mnemonic (decode_writeWord 0x04 d)
  case ckIn => rintro rfl; exact congrArg Instr.mnemonic (decode_writeWord 0x0A d)

end Sys2Proof
end

section
/-! SUPPORT. The opcode table's rows (30_encoding.md R77): when a row matches a word, and how many mask
bits the decoder's row has. -/

namespace Sys2Proof

section
variable {q r : Row} {w : Word}

/-- A matching row fixes the word at each bit of its mask. -/
theorem hits_getLsbD (hq : q.hits w = true) (i : Nat) :
    (w.getLsbD i && q.mask.getLsbD i) = q.pattern.getLsbD i := by
  rw [← eq_of_beq hq, BitVec.getLsbD_and]

/-- A matching row fixes the high byte and the low byte of the word at the bits of its mask. -/
theorem hits_append {h d : Byte} (hq : q.hits (h ++ d) = true) :
    h &&& q.mask.extractLsb' 8 8 = q.pattern.extractLsb' 8 8 ∧
      d &&& q.mask.extractLsb' 0 8 = q.pattern.extractLsb' 0 8 := by
  rw [← eq_of_beq hq, BitVec.extractLsb'_and, BitVec.extractLsb'_and,
    BitVec.extractLsb'_append_eq_left, BitVec.extractLsb'_append_eq_right]
  exact ⟨rfl, rfl⟩

/-- Rows with the same number of mask bits have the same mask. -/
theorem mask_eq_of_weight_eq : ∀ q ∈ opcodeTable, ∀ r ∈ opcodeTable, q.weight = r.weight →
    q.mask = r.mask := by decide

/-- Two rows with one mask and one pattern are one row. -/
theorem row_eq_of_mask_pattern : ∀ q ∈ opcodeTable, ∀ r ∈ opcodeTable, q.mask = r.mask →
    q.pattern = r.pattern → q = r := by decide

/-- Two matching rows with the same number of mask bits are one row (R77). -/
theorem hits_unique (hq : q ∈ opcodeTable) (hr : r ∈ opcodeTable) (hqw : q.hits w = true)
    (hrw : r.hits w = true) (hweight : q.weight = r.weight) : q = r := by
  have hmask := mask_eq_of_weight_eq q hq r hr hweight
  refine row_eq_of_mask_pattern q hq r hr hmask ?_
  rw [← eq_of_beq hqw, ← eq_of_beq hrw, hmask]

/-- Every transaction has a row in the table (R77). -/
theorem exists_row (i : Instr) : ∃ r ∈ opcodeTable, r.mnemonic = i.mnemonic := by
  have hrow : ∀ m : Mnemonic, ∃ r ∈ opcodeTable, r.mnemonic = m := fun m => by cases m <;> decide
  exact hrow i.mnemonic

/-- The row of a transaction matches the transaction's word. -/
theorem row_hits_encode (i : Instr) : Laws.RowMatch.Statement i := by
  cases i with
  | invalid top low => exact Laws.RowMatch.invalid top low
  | rd a => exact Laws.RowMatch.rd a
  | wr a d => exact Laws.RowMatch.wr a d
  | wrKey k d => exact Laws.RowMatch.wrKey k d
  | wrDin k d => exact Laws.RowMatch.wrDin k d
  | wrKeylen d => exact Laws.RowMatch.wrKeylen d
  | wrDinlen d => exact Laws.RowMatch.wrDinlen d
  | ckin d => exact Laws.RowMatch.ckin d
  | cmdRsvd c => exact Laws.RowMatch.cmdRsvd c
  | nop => exact Laws.RowMatch.nop
  | enc => exact Laws.RowMatch.enc
  | dec => exact Laws.RowMatch.dec
  | ckclr => exact Laws.RowMatch.ckclr
  | clrerr => exact Laws.RowMatch.clrerr
  | srst => exact Laws.RowMatch.srst

/-- A word with bit 14 set matches the `INVALID` row alone. -/
theorem mnemonic_of_hits_bit14 (hq : q ∈ opcodeTable) (hqw : q.hits w = true)
    (h14 : w.getLsbD 14 = true) : q.mnemonic = .INVALID := by
  have hrow : ∀ q ∈ opcodeTable, q.mask.getLsbD 14 = q.pattern.getLsbD 14 →
      q.mnemonic = .INVALID := by decide
  have hbit := hits_getLsbD hqw 14
  rw [h14, Bool.true_and] at hbit
  exact hrow q hq hbit

/-- A word with bits 14 and 15 clear matches the `RD` row alone. -/
theorem mnemonic_of_hits_read (hq : q ∈ opcodeTable) (hqw : q.hits w = true)
    (h14 : w.getLsbD 14 = false) (h15 : w.getLsbD 15 = false) : q.mnemonic = .RD := by
  have hrow : ∀ q ∈ opcodeTable, false = q.pattern.getLsbD 14 → false = q.pattern.getLsbD 15 →
      q.mnemonic = .RD := by decide
  have hbit14 := hits_getLsbD hqw 14
  have hbit15 := hits_getLsbD hqw 15
  rw [h14, Bool.false_and] at hbit14
  rw [h15, Bool.false_and] at hbit15
  exact hrow q hq hbit14 hbit15

end

/-! ### The heaviest row that matches a write -/

/-- No row that matches high byte `h` on its mask has more mask bits than the row of mnemonic `m`. -/
def HeaviestAt (h : Byte) (m : Mnemonic) : Prop :=
  ∀ q ∈ opcodeTable, h &&& q.mask.extractLsb' 8 8 = q.pattern.extractLsb' 8 8 →
    ∀ r ∈ opcodeTable, r.mnemonic = m → q.weight ≤ r.weight

theorem heaviestAt_keylen : HeaviestAt 0x83 .WR_KEYLEN := by unfold HeaviestAt; decide
theorem heaviestAt_dinlen : HeaviestAt 0x84 .WR_DINLEN := by unfold HeaviestAt; decide
theorem heaviestAt_ckIn : HeaviestAt 0x8A .CKIN := by unfold HeaviestAt; decide

theorem heaviestAt_din : ∀ i : Fin 8, HeaviestAt (1#1 ++ 0#1 ++ (Reg.din i).addr) .WR_DIN := by
  unfold HeaviestAt; decide

theorem heaviestAt_key : ∀ i : Fin 16, HeaviestAt (1#1 ++ 0#1 ++ (Reg.key i).addr) .WR_KEY := by
  unfold HeaviestAt; decide

theorem heaviestAt_ignored : ∀ a : Addr, writeIgnored a = true →
    HeaviestAt (1#1 ++ 0#1 ++ a) .WR := by
  unfold HeaviestAt; decide

section
variable {q r : Row}

/-- Among the rows that match a command's word, the command's own has the most mask bits: all 16 for a
defined code, and for a reserved code no row with 16 matches. -/
theorem weight_le_of_hits_command {d : Byte} (hq : q ∈ opcodeTable) (hr : r ∈ opcodeTable)
    (hqw : q.hits (writeWord 0x00 d) = true) (hrow : r.mnemonic = (decodeCommand d).mnemonic) :
    q.weight ≤ r.weight := by
  have hmax : ∀ q ∈ opcodeTable, ∀ r ∈ opcodeTable,
      r.mnemonic ∈ [.NOP, .ENC, .DEC, .CKCLR, .CLRERR, .SRST] → q.weight ≤ r.weight := by decide
  obtain ⟨-, h⟩ | ⟨-, h⟩ | ⟨-, h⟩ | ⟨-, h⟩ | ⟨-, h⟩ | ⟨-, h⟩ | ⟨hd, h⟩ :=
    decodeCommand_cases d <;> rw [h] at hrow
  case inr.inr.inr.inr.inr.inr =>
    have hrsvd : ∀ q ∈ opcodeTable, ∀ r ∈ opcodeTable, r.mnemonic = .CMD_RSVD →
        q.weight ≤ r.weight ∨ (q.mask.extractLsb' 0 8 = BitVec.allOnes 8 ∧
          definedCode (q.pattern.extractLsb' 0 8) = true) := by decide
    obtain hle | ⟨hmask, hcode⟩ := hrsvd q hq r hr hrow
    · exact hle
    · have hlow := (hits_append hqw).2
      rw [hmask, BitVec.and_allOnes] at hlow
      rw [← hlow, hd] at hcode
      cases hcode
  all_goals exact hmax q hq r hr (by rw [hrow]; decide)

/-- Among the rows that match a write's word, the write's own has the most mask bits. -/
theorem weight_le_of_hits_write {a : Addr} {d : Byte} (hq : q ∈ opcodeTable) (hr : r ∈ opcodeTable)
    (hqw : q.hits (writeWord a d) = true) (hrow : r.mnemonic = (decodeWrite a d).mnemonic) :
    q.weight ≤ r.weight := by
  have hhigh := (hits_append hqw).1
  obtain ⟨rfl, h⟩ | ⟨rfl, h⟩ | ⟨rfl, h⟩ | ⟨rfl, h⟩ | ⟨i, rfl, h⟩ | ⟨i, rfl, h⟩ | ⟨hi, h⟩ :=
    decodeWrite_cases a d <;> rw [h] at hrow
  · exact weight_le_of_hits_command hq hr hqw hrow
  · exact heaviestAt_keylen q hq hhigh r hr hrow
  · exact heaviestAt_dinlen q hq hhigh r hr hrow
  · exact heaviestAt_ckIn q hq hhigh r hr hrow
  · exact heaviestAt_din i q hq hhigh r hr hrow
  · exact heaviestAt_key i q hq hhigh r hr hrow
  · exact heaviestAt_ignored a hi q hq hhigh r hr hrow

/-! ### The decoder's row -/

variable {w : Word}

/-- No row that matches a word has more mask bits than the row of the word's decoded mnemonic. -/
theorem weight_le_of_hits (hq : q ∈ opcodeTable) (hr : r ∈ opcodeTable) (hqw : q.hits w = true)
    (hrow : r.mnemonic = (decode w).mnemonic) : q.weight ≤ r.weight := by
  have hsame (h : q.mnemonic = (decode w).mnemonic) : q.weight ≤ r.weight :=
    (congrArg Row.weight
      (Laws.RowMatch.one_row_per_mnemonic q hq r hr (h.trans hrow.symm))).le
  cases h14 : w.getLsbD 14 with
  | true => exact hsame (by rw [mnemonic_of_hits_bit14 hq hqw h14, decode_of_bit14 h14]; rfl)
  | false =>
    cases h15 : w.getLsbD 15 with
    | false => exact hsame (by rw [mnemonic_of_hits_read hq hqw h14 h15, decode_of_read h14 h15]; rfl)
    | true =>
      rw [decode_of_write h14 h15] at hrow
      rw [← writeWord_fields h14 h15] at hqw
      exact weight_le_of_hits_write hq hr hqw hrow

/-- The row of the decoded mnemonic matches the word. -/
theorem hits_of_mnemonic_decode (hr : r ∈ opcodeTable) (hrow : r.mnemonic = (decode w).mnemonic) :
    r.hits w = true := by
  obtain ⟨hinvalid, hread, hwrite⟩ := decodeReadsTheFields w
  cases h14 : w.getLsbD 14 with
  | true =>
    obtain ⟨-, henc, -⟩ := hinvalid h14
    exact henc ▸ row_hits_encode _ r hr hrow
  | false =>
    cases h15 : w.getLsbD 15 with
    | true =>
      obtain ⟨-, -, -, -, henc⟩ := hwrite h14 h15
      exact henc ▸ row_hits_encode _ r hr hrow
    | false =>
      have hrd : ∀ r ∈ opcodeTable, r.mnemonic = .RD → r = ⟨.RD, 0x0000, 0xC000⟩ := by decide
      rw [hread h14 h15] at hrow
      rw [hrd r hr hrow]
      refine beq_iff_eq.mpr (BitVec.eq_of_getLsbD_eq fun i hi => ?_)
      rw [BitVec.getLsbD_and]
      interval_cases i <;> simp_all

/-- The words of the generic `WR` row (R77). -/
theorem mnemonic_decode_eq_WR_iff : (decode w).mnemonic = .WR ↔
    w.getLsbD 15 = true ∧ w.getLsbD 14 = false ∧ writeIgnored (w.extractLsb' 8 6) = true := by
  cases h14 : w.getLsbD 14 with
  | true => simp [decode_of_bit14 h14, Instr.mnemonic]
  | false =>
    cases h15 : w.getLsbD 15 with
    | false => simp [decode_of_read h14 h15, Instr.mnemonic]
    | true => simp [decode_of_write h14 h15, mnemonic_decodeWrite_eq_WR_iff]

end

/-- Settles O3: the decoder's row matches and none that matches is heavier, so every other one is
lighter, since two of one weight are one row. -/
theorem decoderFollowsTablePrecedence : Obligations.DecoderFollowsTablePrecedence := by
  refine fun w => ⟨?_, fun q hq r hr => hits_unique hq hr, mnemonic_decode_eq_WR_iff⟩
  obtain ⟨r, hr, hrow⟩ := exists_row (decode w)
  have hrw := hits_of_mnemonic_decode hr hrow
  refine ⟨r, hr, hrow, hrw, fun q hq hqw => ?_⟩
  rcases (weight_le_of_hits hq hr hqw hrow).eq_or_lt with heq | hlt
  · exact .inl (hits_unique hq hr hqw hrw heq)
  · exact .inr hlt

end Sys2Proof
end

section
/-! SUPPORT. The pseudo-instructions (30_encoding.md R80): their expansions, and one turn of `POLL`. -/

namespace Sys2Proof

open Sys2Proof.Machine

/-- A write's word as a number: `0x8000 + 0x100 * A + D` (R71). -/
theorem writeWord_eq_ofNat (a : Addr) (d : Byte) :
    writeWord a d = BitVec.ofNat 16 (0x8000 + 0x100 * a.toNat + d.toNat) := by
  have hlt := a.isLt
  apply BitVec.eq_of_toNat_eq
  rw [show writeWord a d = (1#1 ++ 0#1 ++ a) ++ d from rfl, BitVec.toNat_append,
    ← Nat.shiftLeft_add_eq_or_of_lt d.isLt, toNat_writeHighByte, Nat.shiftLeft_eq, BitVec.toNat_ofNat]
  omega

/-- A write to an address given as a number. -/
theorem writeWord_ofNat (n : Nat) (hn : n < 64) (d : Byte) :
    writeWord (BitVec.ofNat 6 n) d = BitVec.ofNat 16 (0x8000 + 0x100 * n + d.toNat) := by
  rw [writeWord_eq_ofNat, BitVec.toNat_ofNat, Nat.mod_eq_of_lt hn]

/-- The writes of a list of bytes to addresses counted from `base`: what `LDKEY` and `LDBLK` are, but
for the length that follows. -/
def loadOps (base : Nat) (bs : List Byte) : List HostOp :=
  bs.zipIdx.map fun bi => .txn (writeWord (BitVec.ofNat 6 (base + bi.2)) bi.1)

theorem expand_ldkey (ks : List Byte) : (AsmLine.ldkey ks).expand =
    loadOps 0x20 ks ++ [.txn (writeWord Reg.keylen.addr (BitVec.ofNat 8 ks.length))] := rfl

theorem expand_ldblk (bs : Vector Byte 8) : (AsmLine.ldblk bs).expand =
    loadOps 0x10 bs.toList ++ [.txn (writeWord Reg.dinlen.addr 0x08)] := rfl

@[simp] theorem length_loadOps (base : Nat) (bs : List Byte) :
    (loadOps base bs).length = bs.length := by
  simp [loadOps]

/-- The word of each write, as a number. -/
theorem loadOps_getElem? {base : Nat} {bs : List Byte} {i : Nat} (hi : i < bs.length)
    (hbase : base + i < 64) : (loadOps base bs)[i]? =
      some (.txn (BitVec.ofNat 16 (0x8000 + 0x100 * (base + i) + bs[i].toNat))) := by
  simp [loadOps, hi, writeWord_ofNat _ hbase]

/-- `LDKEY`: the key writes, then `KEYLEN` (R80). -/
theorem ldkey_words (ks : List Byte) (hks : ks.length ≤ 16) :
    (AsmLine.ldkey ks).expand.length = ks.length + 1 ∧
    (∀ i : Nat, (h : i < ks.length) → (AsmLine.ldkey ks).expand[i]? =
      some (.txn (BitVec.ofNat 16 (0xA000 + 0x100 * i + ks[i].toNat)))) ∧
    (AsmLine.ldkey ks).expand[ks.length]? = some (.txn (BitVec.ofNat 16 (0x8300 + ks.length))) := by
  rw [expand_ldkey]
  refine ⟨by simp, fun i hi => ?_, ?_⟩
  · rw [List.getElem?_append_left (by simpa using hi), loadOps_getElem? hi (by omega)]
    congr 3
    omega
  · rw [List.getElem?_append_right (by simp), length_loadOps, Nat.sub_self, writeWord_eq_ofNat,
      BitVec.toNat_ofNat, Nat.mod_eq_of_lt (by omega)]
    rfl

/-- `LDBLK`: the eight `DIN` writes, then `DINLEN = 8` (R80). -/
theorem ldblk_words (bs : Vector Byte 8) :
    (AsmLine.ldblk bs).expand.length = 9 ∧
    (∀ i : Fin 8, (AsmLine.ldblk bs).expand[i.val]? =
      some (.txn (BitVec.ofNat 16 (0x9000 + 0x100 * i + bs[i].toNat)))) ∧
    (AsmLine.ldblk bs).expand[8]? = some (.txn 0x8408) := by
  rw [expand_ldblk]
  have hlen : (loadOps 0x10 bs.toList).length = 8 := by simp
  refine ⟨by simp, fun i => ?_, ?_⟩
  · rw [List.getElem?_append_left (by omega), loadOps_getElem? (by simp) (by omega)]
    rw [show 0x8000 + 0x100 * (0x10 + i.val) = 0x9000 + 0x100 * i.val by omega]
    rfl
  · rw [List.getElem?_append_right hlen.le, hlen]
    rfl

/-- One turn of `POLL`: `RD STATUS`, and the loop stays exactly while bit 0 of the value is 1 (R80). -/
theorem poll_turn (s : State) (rest : List HostOp) (hprog : s.program = .poll :: rest)
    (hpin : s.resetPin = false) : ∃ v : Byte,
      exec (decode 0x0100) s = .next { s with reads := v :: s.reads } ∧
      hostTurn s = .next { s with
        reads := v :: s.reads
        program := if v.getLsbD 0 then s.program else rest } := by
  refine ⟨status s, rfl, ?_⟩
  have hturn : hostTurn s = .next (pollTurn rest s) := by
    unfold hostTurn
    simp only [hprog, hpin, Bool.false_eq_true, if_false]
  rw [hturn, pollTurn_eq, (status_getLsbD s).1]
  cases busy s <;> rfl

/-- Settles O6, line by line: the one-word lines and `RDBLK` evaluate to their words. -/
theorem pseudoInstructionExpansions : Obligations.PseudoInstructionExpansions := by
  refine ⟨rfl, rfl, rfl, rfl, rfl, rfl, fun b => ?_, ldkey_words, ldblk_words, rfl, rfl, poll_turn⟩
  exact congrArg (fun w => [HostOp.txn w]) (writeWord_eq_ofNat 0x0A b)

end Sys2Proof
end

section
/-! SUPPORT. The bus transactions, said once (40_bus_access.md R90 to R99): the words of reads and
of byte-file writes, the register at each address, the value a read returns, and what each register
write answers. -/

namespace Sys2Proof

/-! ### The word of a read -/

/-- The high byte of a read's word (30_encoding.md R71). -/
theorem toNat_readHighByte (a : Addr) : (0#1 ++ 0#1 ++ a).toNat = a.toNat := by
  revert a; decide

/-- A read's word decodes to a read of its address; the `D` field is ignored (R71). -/
@[simp] theorem decode_busWord_read (a : Addr) (d : Byte) :
    decode (busWord 0#1 0#1 a d) = .rd a := by
  have haddr : (busWord 0#1 0#1 a d).extractLsb' 8 6 = a := by
    apply BitVec.eq_of_getLsbD_eq
    intro i hi
    simp only [busWord, BitVec.getLsbD_extractLsb', BitVec.getLsbD_append]
    interval_cases i <;> simp
  have hlt := a.isLt
  rw [decode_of_read, haddr]
  · rw [busWord, bit14_append, toNat_readHighByte, decide_eq_false_iff_not]; omega
  · rw [busWord, bit15_append, toNat_readHighByte, decide_eq_false_iff_not]; omega

/-! ### The words of the writes to `DIN` and `KEY` -/

/-- A write's word as a number decodes to the row of its address and data. -/
theorem decode_writeWord_ofNat (n : Nat) (hn : n < 64) (d : Byte) :
    decode (BitVec.ofNat 16 (0x8000 + 0x100 * n + d.toNat)) = decodeWrite (BitVec.ofNat 6 n) d := by
  rw [← writeWord_ofNat n hn, decode_writeWord]

/-- The word of `WR DINi` as a number (30_encoding.md R78). -/
theorem decode_wrDin (i : Fin 8) (d : Byte) :
    decode (BitVec.ofNat 16 (0x9000 + 0x100 * i + d.toNat)) = .wrDin i d := by
  rw [show 0x9000 + 0x100 * i.val = 0x8000 + 0x100 * (0x10 + i.val) by omega,
    decode_writeWord_ofNat _ (by omega)]
  exact decodeWrite_din i d

/-- The word of `WR KEYi` as a number (30_encoding.md R78). -/
theorem decode_wrKey (i : Fin 16) (d : Byte) :
    decode (BitVec.ofNat 16 (0xA000 + 0x100 * i + d.toNat)) = .wrKey i d := by
  rw [show 0xA000 + 0x100 * i.val = 0x8000 + 0x100 * (0x20 + i.val) by omega,
    decode_writeWord_ofNat _ (by omega)]
  exact decodeWrite_key i d

/-! ### The register at an address -/

/-- The address map (10_state.md R24) read both ways gives back every register. -/
theorem Reg.ofAddr_addr (r : Reg) (h : r.wellFormed = true) : Reg.ofAddr r.addr = r := by
  cases r with
  | cmd | status | errcode | keylen | dinlen | sumLo | sumHi | ckxor | ckchk | ckcpl | ckIn => rfl
  | din i => revert i; decide
  | dout i => revert i; decide
  | key i => revert i; decide
  | reserved a => revert a; decide

end Sys2Proof

namespace Sys2Proof.Machine

section
variable (s : State)

/-! ### The value of a read -/

/-- `RD` answers the state with the address's value returned, and writes nothing else (R90). -/
theorem exec_rd (a : Addr) :
    exec (.rd a) s = .next { s with reads := readValue s a :: s.reads } := rfl

/-- The value of an address is the value of the register there (R91). -/
theorem readValue_addr (r : Reg) (h : r.wellFormed = true) : readValue s r.addr = readReg s r := by
  rw [readValue, r.ofAddr_addr h]

/-- The value of an address given as a number. -/
theorem readValue_of_toNat {a : Addr} (r : Reg) (h : r.wellFormed = true)
    (ha : a.toNat = r.addr.toNat) : readValue s a = readReg s r := by
  rw [BitVec.eq_of_toNat_eq ha, readValue_addr s r h]

/-- A reserved address reads as 0x00 (10_state.md R38). -/
theorem readValue_reserved {a : Addr} (h : reservedAddr a = true) : readValue s a = 0x00 :=
  readValue_addr s (.reserved a) h

/-- A byte of `KEY` reads as 0x00 (10_state.md R37). -/
@[simp] theorem readValue_key (i : Fin 16) : readValue s (Reg.key i).addr = 0x00 :=
  readValue_addr s (.key i) rfl

/-- Bits 5 to 7 of `STATUS` are 0 (R91). -/
theorem status_lt : (status s).toNat < 0x20 := by
  unfold status
  generalize busy s = a
  generalize s.done = b
  generalize s.err = c
  generalize keyok s = d
  generalize blkok s = e
  revert a b c d e
  decide

/-- The low byte of the sum as a number (10_state.md R30). -/
theorem sumLo_toNat : (sumLo s).toNat = s.sum16.toNat % 0x100 := by
  rw [sumLo, BitVec.extractLsb'_toNat, Nat.shiftRight_zero]

/-- The high byte of the sum as a number (10_state.md R30). -/
theorem sumHi_toNat : (sumHi s).toNat = s.sum16.toNat / 0x100 := by
  have hlt := s.sum16.isLt
  rw [sumHi, BitVec.extractLsb'_toNat, Nat.shiftRight_eq_div_pow]
  omega

/-- The frame checksum byte as a number (43_checksum.md R152). -/
theorem ckchk_toNat : (ckchk s).toNat = (0x100 - s.sum16.toNat % 0x100) % 0x100 := by
  rw [ckchk, BitVec.toNat_ofNat, sumLo_toNat]

/-- The complement byte as a number (43_checksum.md R153). -/
theorem ckcpl_toNat : (ckcpl s).toNat = 0xFF - s.sum16.toNat % 0x100 := by
  rw [ckcpl, BitVec.toNat_ofNat, sumLo_toNat]
  omega

/-! ### The register writes -/

/-- `WR` to a read-only or reserved address (R99). -/
theorem exec_wr (a : Addr) (d : Byte) : exec (.wr a d) s = .next s := rfl

/-- `WR DINi` (R97). -/
theorem exec_wrDin (i : Fin 8) (d : Byte) :
    exec (.wrDin i d) s = .next { s with din := s.din.set i d } := rfl

/-- `WR KEYi` (R98). -/
theorem exec_wrKey (i : Fin 16) (d : Byte) :
    exec (.wrKey i d) s = .next { s with key := s.key.set i d } := rfl

/-- `WR KEYLEN` (R94). -/
theorem exec_wrKeylen (d : Byte) : exec (.wrKeylen d) s = .next { s with keylen := d } := rfl

/-- `WR DINLEN` (R95). -/
theorem exec_wrDinlen (d : Byte) : exec (.wrDinlen d) s = .next { s with dinlen := d } := rfl

end

end Sys2Proof.Machine
end

section
/-! SUPPORT. What the bus transactions do (40_bus_access.md R90 to R99). -/

namespace Sys2Proof.Machine

/-- Settles O7, row by row of the table of R91. -/
theorem readReturnsTheTableValue : Obligations.ReadReturnsTheTableValue := by
  refine fun s a => ⟨decode_busWord_read a, readValue s a, exec_rd s a, ?cmd, ?status, ?errcode,
    ?keylen, ?dinlen, ?sumLo, ?sumHi, ?ckxor, ?ckchk, ?ckcpl, ?ckIn, ?reservedLow, ?din, ?dout, ?key,
    ?reservedHigh⟩
  case cmd | errcode | keylen | dinlen | ckxor | ckIn => rintro rfl; rfl
  case status =>
    rintro rfl
    obtain ⟨hbusy, hdone, herr, hkey, hblk⟩ := status_getLsbD s
    exact ⟨hbusy, hdone, herr, hkey ▸ keyok_iff s, hblk ▸ blkok_iff s, status_lt s⟩
  case sumLo => rintro rfl; exact sumLo_toNat s
  case sumHi => rintro rfl; exact sumHi_toNat s
  case ckchk => rintro rfl; exact ckchk_toNat s
  case ckcpl => rintro rfl; exact ckcpl_toNat s
  case reservedLow | reservedHigh =>
    exact fun ha => readValue_reserved s (by simp [reservedAddr, ha])
  case din =>
    have haddr : ∀ i : Fin 8, (Reg.din i).addr.toNat = 0x10 + i := by decide
    exact fun i ha => readValue_of_toNat s (.din i) rfl (ha.trans (haddr i).symm)
  case dout =>
    have haddr : ∀ i : Fin 8, (Reg.dout i).addr.toNat = 0x18 + i := by decide
    exact fun i ha => readValue_of_toNat s (.dout i) rfl (ha.trans (haddr i).symm)
  case key =>
    have haddr : ∀ i : Fin 16, (Reg.key i).addr.toNat = 0x20 + i := by decide
    exact fun i ha => readValue_of_toNat s (.key i) rfl (ha.trans (haddr i).symm)

/-- Settles O9: the decoder's two rows, the two writes, and a key byte's read in the written state. -/
theorem byteFileWritesStoreOneByte : Obligations.ByteFileWritesStoreOneByte := by
  refine fun s d => ⟨fun i => ⟨decode_wrDin i d, exec_wrDin s i d⟩,
    fun i => ⟨decode_wrKey i d, exec_wrKey s i d, ?_⟩⟩
  rw [exec_rd, show BitVec.ofNat 6 (0x20 + i) = (Reg.key i).addr from rfl, readValue_key]

/-- Settles O10: the two writes, and the read of each register in the written state. -/
theorem lengthWritesStoreAnyValue : Obligations.LengthWritesStoreAnyValue := by
  refine fun s d => ⟨exec_wrKeylen s d, ?keylen, exec_wrDinlen s d, ?dinlen,
    decode_writeWord Reg.keylen.addr d, decode_writeWord Reg.dinlen.addr d⟩
  case keylen => exact exec_rd { s with keylen := d } Reg.keylen.addr
  case dinlen => exact exec_rd { s with dinlen := d } Reg.dinlen.addr

/-- Settles O11: each address of the list is one where the decoder takes the generic row, whose
meaning is the state as it was. -/
theorem readOnlyAndReservedWritesAreIgnored : Obligations.ReadOnlyAndReservedWritesAreIgnored := by
  intro s a d ha
  have hignored : writeIgnored a = true := by
    rw [writeIgnored_iff]
    obtain rfl | rfl | hrange := ha
    · exact .inl rfl
    · exact .inr (.inl rfl)
    · exact .inr (.inr hrange)
  exact ⟨(decode_writeWord a d).trans (decodeWrite_ignored a d hignored), exec_wr s a d⟩

end Sys2Proof.Machine
end

section
/-! SUPPORT. The DES function (41_cipher.md R118 to R121): the rounds and the key schedule by the
sequences of the rules, what undoes what, and how each part acts on complements. -/

namespace Sys2Proof.Machine

/-! ### `IP` and `FP` -/

/-- Two permutations whose tables name each other's positions cancel. -/
theorem permute_permute_cancel {n : Nat} (S T : Vector Nat n)
    (h : ∀ i : Fin n, n - S[n - 1 - i]?.getD 0 < n ∧
      n - T[n - 1 - (n - S[n - 1 - i]?.getD 0)]?.getD 0 = i) (v : BitVec n) :
    permute S (permute T v) = v := by
  apply BitVec.eq_of_getLsbD_eq
  intro i hi
  obtain ⟨hlt, heq⟩ := h ⟨i, hi⟩
  simp only [getLsbD_permute, hi, hlt, heq, decide_true, Bool.true_and]

/-- `FP` undoes `IP` (42_des_tables.md R131). -/
@[simp] theorem permute_fpTable_ipTable (v : BitVec 64) :
    permute fpTable (permute ipTable v) = v :=
  permute_permute_cancel fpTable ipTable (by decide) v

/-- `IP` undoes `FP` (42_des_tables.md R131). -/
@[simp] theorem permute_ipTable_fpTable (v : BitVec 64) :
    permute ipTable (permute fpTable v) = v :=
  permute_permute_cancel ipTable fpTable (by decide) v

/-! ### The rounds as sequences -/

/-- Sequences that follow the round equations of R118 end as the rounds end. -/
theorem rounds_of_sequences (ks : List (BitVec 48)) (L R : Nat → BitVec 32)
    (h : ∀ i < ks.length, L (i + 1) = R i ∧ R (i + 1) = L i ^^^ feistel (R i) (ks.getD i 0)) :
    rounds ks (L 0, R 0) = (L ks.length, R ks.length) := by
  induction ks generalizing L R with
  | nil => rfl
  | cons k ks ih =>
    obtain ⟨hL, hR⟩ := h 0 (by simp)
    have htail := ih (fun i => L (i + 1)) (fun i => R (i + 1)) fun i hi => by
      simpa using h (i + 1) (by simpa using hi)
    simpa [rounds, hL, hR] using htail

/-- The data path by the sequences of R118, under any list of subkeys. -/
theorem desWith_of_sequences (ks : List (BitVec 48)) (v : BitVec 64) (L R : Nat → BitVec 32)
    (hL : L 0 = (permute ipTable v).extractLsb' 32 32)
    (hR : R 0 = (permute ipTable v).extractLsb' 0 32)
    (h : ∀ i < ks.length, L (i + 1) = R i ∧ R (i + 1) = L i ^^^ feistel (R i) (ks.getD i 0)) :
    desWith ks v = permute fpTable (R ks.length ++ L ks.length) := by
  rw [desWith, ← hL, ← hR, rounds_of_sequences ks L R h]

/-- Subkey `i` of the reversed schedule is subkey `15 - i` (R119). -/
theorem getD_reverse_keySchedule (k : BitVec 64) (i : Nat) (hi : i < 16) :
    (keySchedule k).reverse.getD i 0 = (keySchedule k).getD (15 - i) 0 := by
  rw [List.getD_reverse i (by simpa using hi), keySchedule_length, Nat.sub_right_comm]

/-- The data path under the reversed subkeys undoes the data path (R119). -/
theorem desWith_reverse_desWith (ks : List (BitVec 48)) (v : BitVec 64) :
    desWith ks.reverse (desWith ks v) = v := by
  have hrounds := rounds_reverse ks
    ((permute ipTable v).extractLsb' 32 32, (permute ipTable v).extractLsb' 0 32)
  simp only [Prod.swap] at hrounds
  simp only [desWith, permute_ipTable_fpTable, BitVec.extractLsb'_append_eq_left,
    BitVec.extractLsb'_append_eq_right, hrounds]
  rw [BitVec.extractLsb'_append_extractLsb' (w := 32) (len := 32), permute_fpTable_ipTable]

/-- `DES_Dec` undoes `DES_Enc` (R119). -/
theorem desDec_desEnc (k p : BitVec 64) : desDec k (desEnc k p) = p :=
  desWith_reverse_desWith (keySchedule k) p

/-- `DES_Enc` undoes `DES_Dec` (R119). -/
theorem desEnc_desDec (k c : BitVec 64) : desEnc k (desDec k c) = c := by
  simpa [desEnc, desDec] using desWith_reverse_desWith (keySchedule k).reverse c

/-! ### The rotations -/

/-- `rotl28` on numbers (R120). -/
theorem rotl28_toNat (x : BitVec 28) (n : Nat) :
    (rotl28 x n).toNat = ((x.toNat <<< n) ||| (x.toNat >>> (28 - n))) % 2 ^ 28 := by
  have hlow : x.toNat >>> (28 - n) < 2 ^ 28 :=
    (Nat.shiftRight_le _ _).trans_lt x.isLt
  rw [rotl28, BitVec.toNat_or, BitVec.toNat_shiftLeft, BitVec.toNat_ushiftRight,
    Nat.or_mod_two_pow, Nat.mod_eq_of_lt hlow]

/-- Rotations add up. -/
theorem rotateLeft_rotateLeft {w : Nat} (x : BitVec w) (m n : Nat) :
    (x.rotateLeft m).rotateLeft n = x.rotateLeft (m + n) := by
  apply BitVec.eq_of_getMsbD_eq
  intro i hi
  have hmod : (n + i) % w < w := Nat.mod_lt _ (by omega)
  simp [BitVec.getMsbD_rotateLeft, hi, hmod, Nat.add_assoc]

/-- A rotation by 0 is no rotation. -/
@[simp] theorem rotateLeft_zero {w : Nat} (x : BitVec w) : x.rotateLeft 0 = x := by
  apply BitVec.eq_of_getMsbD_eq
  intro i hi
  simp [BitVec.getMsbD_rotateLeft, hi, Nat.mod_eq_of_lt hi]

/-- A rotation by the width is no rotation. -/
@[simp] theorem rotateLeft_width {w : Nat} (x : BitVec w) : x.rotateLeft w = x := by
  rw [← BitVec.rotateLeft_mod_eq_rotateLeft, Nat.mod_self, rotateLeft_zero]

/-- `rotl28` is the library's rotation for the shifts of the rule. -/
theorem rotl28_eq_rotateLeft (x : BitVec 28) (n : Nat) (hn : n ≤ 28) :
    rotl28 x n = x.rotateLeft n := by
  obtain hlt | rfl := Nat.lt_or_eq_of_le hn
  · exact (BitVec.rotateLeft_eq_rotateLeftAux_of_lt hlt).symm
  · rw [rotateLeft_width]
    simp [rotl28]

/-- A sequence that rotates by the shifts of a list ends rotated by their sum. -/
theorem sequence_rotateLeft_sum (ns : List Nat) (C : Nat → BitVec 28) (hns : ∀ n ∈ ns, n ≤ 28)
    (h : ∀ i < ns.length, C (i + 1) = rotl28 (C i) (ns.getD i 0)) :
    C ns.length = (C 0).rotateLeft ns.sum := by
  induction ns generalizing C with
  | nil => simp
  | cons n ns ih =>
    have hhead : C 1 = (C 0).rotateLeft n :=
      (h 0 (by simp)).trans (rotl28_eq_rotateLeft _ n (hns n (by simp)))
    have htail := ih (fun i => C (i + 1)) (fun m hm => hns m (by simp [hm])) fun i hi => by
      simpa using h (i + 1) (by simpa using hi)
    simpa [hhead, rotateLeft_rotateLeft] using htail

/-- The shifts of R144 bring a half of the key back to where it began. -/
theorem sequence_shiftsTable_returns (C : Nat → BitVec 28)
    (h : ∀ i < 16, C (i + 1) = rotl28 (C i) (shiftsTable.getD i 0)) : C 16 = C 0 := by
  have hsum := sequence_rotateLeft_sum shiftsTable C (by decide) h
  rw [show shiftsTable.sum = 28 from rfl, rotateLeft_width] at hsum
  exact hsum

/-! ### The key schedule as sequences -/

/-- The subkeys by sequences that rotate by the shifts of the list (R120). -/
theorem subkeys_of_sequences (ns : List Nat) (C D : Nat → BitVec 28)
    (h : ∀ i < ns.length, C (i + 1) = rotl28 (C i) (ns.getD i 0) ∧
      D (i + 1) = rotl28 (D i) (ns.getD i 0)) (i : Nat) (hi : i < ns.length) :
    (subkeys (C 0) (D 0) ns).getD i 0 = permute pc2Table (C (i + 1) ++ D (i + 1)) := by
  induction ns generalizing C D i with
  | nil => simp at hi
  | cons n ns ih =>
    obtain ⟨hC, hD⟩ : C 1 = rotl28 (C 0) n ∧ D 1 = rotl28 (D 0) n := h 0 (by simp)
    rw [subkeys, ← hC, ← hD]
    cases i with
    | zero => rfl
    | succ i =>
      exact ih (fun i => C (i + 1)) (fun i => D (i + 1))
        (fun j hj => h (j + 1) (by simpa using hj)) i (by simpa using hi)

/-- `PC1` names no parity bit: FIPS positions 8, 16, ..., 64 do not occur in it (R120). -/
theorem pc1Table_mod_eight : ∀ t ∈ pc1Table.toList, t % 8 ≠ 0 := by decide

/-! ### The S-boxes -/

/-- Every entry of the S-boxes is a nibble. -/
theorem sBox_entry_lt (S : SBox) (hS : S ∈ [s1, s2, s3, s4, s5, s6, s7, s8]) :
    ∀ (row : Fin 4) (col : Fin 16), S[row][col] < 16 := by
  simp only [List.mem_cons, List.not_mem_nil, or_false] at hS
  obtain rfl | rfl | rfl | rfl | rfl | rfl | rfl | rfl := hS <;> decide

/-- The row of six bits as a number (R121). -/
theorem sBox_row_toNat (b : BitVec 6) : (b.extractLsb' 5 1 ++ b.extractLsb' 0 1).toNat =
    2 * (b.getLsbD 5).toNat + (b.getLsbD 0).toNat := by
  revert b
  decide

/-- A substitution is the entry of its table in the row of the outer bits and the column of the inner
bits (R121). -/
theorem substitute_entry (S : SBox) (hS : ∀ (row : Fin 4) (col : Fin 16), S[row][col] < 16)
    (b : BitVec 6) :
    ∃ line, S.toList[2 * (b.getLsbD 5).toNat + (b.getLsbD 0).toNat]? = some line ∧
      line.toList[(b.extractLsb' 1 4).toNat]? = some (substitute S b).toNat := by
  have hrow := (b.extractLsb' 5 1 ++ b.extractLsb' 0 1).isLt
  have hcol := (b.extractLsb' 1 4).isLt
  rw [← sBox_row_toNat]
  refine ⟨S[(b.extractLsb' 5 1 ++ b.extractLsb' 0 1).toNat], ?_, ?_⟩
  · rw [Vector.getElem?_toList, Vector.getElem?_eq_getElem]
  · rw [Vector.getElem?_toList, Vector.getElem?_eq_getElem hcol, substitute, BitVec.toNat_ofNat]
    exact congrArg some (Nat.mod_eq_of_lt (hS ⟨_, hrow⟩ ⟨_, hcol⟩)).symm

/-- The nibbles of `substituteAll`: nibble `j` is S-box `j` of the `j`-th six bits (R121). -/
theorem substituteAll_nibble (x : BitVec 48) (j : Nat) (S : SBox)
    (h : [s1, s2, s3, s4, s5, s6, s7, s8][j]? = some S) :
    (substituteAll x).extractLsb' (28 - 4 * j) 4 = substitute S (x.extractLsb' (42 - 6 * j) 6) := by
  have hj : j < 8 := (List.getElem?_eq_some_iff.mp h).1
  unfold substituteAll
  interval_cases j <;> cases h <;>
    simp (disch := decide) only [BitVec.extractLsb'_append_eq_of_le,
      BitVec.extractLsb'_append_eq_right, BitVec.extractLsb'_eq_self, Nat.reduceMul, Nat.reduceSub]

/-! ### Complements -/

/-- A range of bits of a complement. -/
theorem extractLsb'_not {w : Nat} (x : BitVec w) (start len : Nat) (h : start + len ≤ w) :
    (~~~x).extractLsb' start len = ~~~(x.extractLsb' start len) := by
  apply BitVec.eq_of_getLsbD_eq
  intro i hi
  simp [hi, show start + i < w by omega]

/-- A rotation of a complement. -/
theorem rotl28_not (x : BitVec 28) (n : Nat) (hn : n ≤ 28) : rotl28 (~~~x) n = ~~~(rotl28 x n) := by
  rw [rotl28_eq_rotateLeft _ n hn, rotl28_eq_rotateLeft _ n hn]
  apply BitVec.eq_of_getMsbD_eq
  intro i hi
  have hmod : (n + i) % 28 < 28 := Nat.mod_lt _ (by omega)
  simp [BitVec.getMsbD_rotateLeft, hi, hmod]

/-- The subkeys from complemented halves are the complements of the subkeys. -/
theorem subkeys_not (c d : BitVec 28) (ns : List Nat) (hns : ∀ n ∈ ns, n ≤ 28) :
    subkeys (~~~c) (~~~d) ns = (subkeys c d ns).map (~~~·) := by
  induction ns generalizing c d with
  | nil => rfl
  | cons n ns ih =>
    have hn : n ≤ 28 := hns n (by simp)
    rw [subkeys, rotl28_not c n hn, rotl28_not d n hn, ih _ _ fun m hm => hns m (by simp [hm]),
      ← BitVec.not_append, permute_not pc2Table _ (by decide)]
    rfl

/-- The subkeys of the complemented key are the complements of the subkeys (R128). -/
theorem keySchedule_not (k : BitVec 64) : keySchedule (~~~k) = (keySchedule k).map (~~~·) := by
  simp only [keySchedule, permute_not pc1Table k (by decide)]
  rw [extractLsb'_not _ 28 28 (by decide), extractLsb'_not _ 0 28 (by decide),
    subkeys_not _ _ _ (by decide)]

/-- The round function does not change when both its arguments are complemented (R128). -/
theorem feistel_not (r : BitVec 32) (k : BitVec 48) : feistel (~~~r) (~~~k) = feistel r k := by
  rw [feistel, permute_not eTable r (by decide), ← BitVec.not_xor_left, ← BitVec.not_xor_right,
    BitVec.not_not]
  rfl

/-- The rounds under complemented subkeys, from complemented halves (R128). -/
theorem rounds_not (ks : List (BitVec 48)) (l r : BitVec 32) :
    rounds (ks.map (~~~·)) (~~~l, ~~~r) = (~~~(rounds ks (l, r)).1, ~~~(rounds ks (l, r)).2) := by
  induction ks generalizing l r with
  | nil => rfl
  | cons k ks ih =>
    rw [List.map_cons, rounds, feistel_not, ← BitVec.not_xor_left, ih]
    rfl

/-- The data path under complemented subkeys, on the complemented block (R128). -/
theorem desWith_not (ks : List (BitVec 48)) (v : BitVec 64) :
    desWith (ks.map (~~~·)) (~~~v) = ~~~(desWith ks v) := by
  simp only [desWith, permute_not ipTable v (by decide)]
  rw [extractLsb'_not _ 32 32 (by decide), extractLsb'_not _ 0 32 (by decide), rounds_not,
    ← BitVec.not_append, permute_not fpTable _ (by decide)]

/-! ### Parity bits and the weak key -/

/-- Keys that agree but for bit 0 of each byte have the same subkeys (R124). -/
theorem keySchedule_congr_parity (k l : BitVec 64)
    (h : ∀ i : Nat, i % 8 ≠ 0 → k.getLsbD i = l.getLsbD i) : keySchedule k = keySchedule l := by
  have hpc1 : permute pc1Table k = permute pc1Table l := by
    refine permute_congr pc1Table k l fun t ht => h _ ?_
    have hmod := pc1Table_mod_eight t ht
    have hle : t ≤ 64 := (show ∀ u ∈ pc1Table.toList, u ≤ 64 by decide) t ht
    omega
  rw [keySchedule, keySchedule, hpc1]

/-- A permutation of zeros. -/
@[simp] theorem permute_zero {w m : Nat} (T : Vector Nat m) : permute T (0 : BitVec w) = 0 := by
  apply BitVec.eq_of_getLsbD_eq
  intro i hi
  simp [getLsbD_permute]

/-- The subkeys from halves of zeros are zeros. -/
theorem subkeys_zero (ns : List Nat) : subkeys 0 0 ns = List.replicate ns.length 0 := by
  induction ns with
  | nil => rfl
  | cons n ns ih =>
    have hrot : rotl28 0 n = 0 := by simp [rotl28]
    have hcd : (0 : BitVec 28) ++ (0 : BitVec 28) = (0 : BitVec 56) := rfl
    rw [subkeys, hrot, ih, hcd, permute_zero, List.length_cons, List.replicate_succ]

/-- The weak key 01 01 01 01 01 01 01 01 has only parity bits, so its subkeys are those of the key of
zeros (R125). -/
theorem keySchedule_weakKey : keySchedule 0x0101010101010101 = List.replicate 16 0 := by
  have hparity : keySchedule 0x0101010101010101 = keySchedule 0 := by
    refine keySchedule_congr_parity _ _ fun i hi => ?_
    by_cases hlt : i < 64
    · exact (show ∀ i < 64, i % 8 ≠ 0 → (0x0101010101010101#64).getLsbD i = (0#64).getLsbD i by
        decide) i hlt hi
    · rw [BitVec.getLsbD_of_ge _ _ (by omega), BitVec.getLsbD_of_ge _ _ (by omega)]
  rw [hparity, keySchedule, permute_zero]
  exact subkeys_zero shiftsTable

/-- `DES_Enc` is its own inverse under a key whose subkeys read the same in both orders. -/
theorem desEnc_desEnc_of_reverse (k p : BitVec 64) (h : (keySchedule k).reverse = keySchedule k) :
    desEnc k (desEnc k p) = p := by
  have hinv := desWith_reverse_desWith (keySchedule k) p
  rwa [h] at hinv

end Sys2Proof.Machine
end

section
/-! SUPPORT. The cipher unit as the host sees it (41_cipher.md R111 to R117): an accepted command, its
completion, and the byte order of the operands. -/

namespace Sys2Proof.Machine

/-! ### The byte order -/

/-- Byte `i` of `BE(x)` (00_scope.md R11). -/
theorem be8_byte (x : Vector Byte 8) (i : Fin 8) : (be8 x).extractLsb' (56 - 8 * i) 8 = x[i] := by
  unfold be8
  fin_cases i <;>
    simp (disch := decide) only [BitVec.extractLsb'_append_eq_of_le,
      BitVec.extractLsb'_append_eq_right, BitVec.extractLsb'_eq_self, Nat.reduceMul,
      Nat.reduceSub] <;>
    rfl

/-- Bit by bit in FIPS numbering (R111): FIPS bit `8i + j` is bit `8 - j` of byte `i`. -/
theorem be8_fips_bit (x : Vector Byte 8) (i : Fin 8) (j : Nat) (hlo : 1 ≤ j) (hhi : j ≤ 8) :
    (be8 x).getLsbD (64 - (8 * i + j)) = x[i].getLsbD (8 - j) := by
  rw [← be8_byte, BitVec.getLsbD_extractLsb', decide_eq_true (show 8 - j < 8 by omega),
    Bool.true_and]
  congr 1
  omega

/-- Byte `i` of `Bytes8(v)` (R11). -/
theorem bytes8_getElem (v : BitVec 64) (i : Fin 8) :
    (bytes8 v)[i] = v.extractLsb' (56 - 8 * i) 8 := by
  simp [bytes8]

/-- `Bytes8` undoes `BE`. -/
@[simp] theorem bytes8_be8 (x : Vector Byte 8) : bytes8 (be8 x) = x := by
  apply Vector.ext
  intro i hi
  exact (bytes8_getElem _ ⟨i, hi⟩).trans (be8_byte x ⟨i, hi⟩)

/-- `BE` undoes `Bytes8`. -/
@[simp] theorem be8_bytes8 (v : BitVec 64) : be8 (bytes8 v) = v := by
  apply BitVec.eq_of_getLsbD_eq
  intro n hn
  obtain ⟨i, j, hj, rfl⟩ : ∃ (i : Fin 8) (j : Nat), j < 8 ∧ n = 56 - 8 * i + j :=
    ⟨⟨7 - n / 8, by omega⟩, n % 8, by omega, by simp only; omega⟩
  have hbyte := (be8_byte (bytes8 v) i).trans (bytes8_getElem v i)
  simpa [hj] using congrArg (·.getLsbD j) hbyte

/-- Byte `i` of `KEY[0..7]`. -/
theorem keyHead_getElem (s : State) (i : Fin 8) : (keyHead s)[i] = s.key[i.val] := by
  simp [keyHead]

/-! ### An accepted command and its completion -/

/-- The command of a direction (30_encoding.md R74). -/
def Dir.command : Dir → Instr
  | .enc => .enc
  | .dec => .dec

/-- The command of a direction starts the cipher in that direction (R114, R116). -/
theorem exec_command (d : Dir) (s : State) : exec d.command s = .next (startCipher d s) := by
  cases d <;> rfl

/-- The two commands of the cipher are the commands of the two directions. -/
theorem exists_command (i : Instr) (hi : i ∈ [Instr.enc, Instr.dec]) : ∃ d : Dir, i = d.command := by
  simp only [List.mem_cons, List.not_mem_nil, or_false] at hi
  obtain rfl | rfl := hi
  · exact ⟨.enc, rfl⟩
  · exact ⟨.dec, rfl⟩

/-- The host moves `DOUT` to `DIN`. -/
def feedBack (s : State) : State := { s with din := s.dout }

section
variable {s : State} (hready : Ready s)
include hready

/-- In a ready state a cipher command is accepted (R115). -/
theorem startCipher_ready (d : Dir) :
    startCipher d s = { s with done := false, pend := some ⟨d, k64 s, b64 s⟩ } := by
  obtain ⟨hidle, hmin, hmax, hblock⟩ := hready
  refine startCipher_accepts d s ((busy_eq_false_iff s).mpr hidle)
    ((keyok_iff s).mpr ⟨hmin, hmax⟩) ((blkok_iff s).mpr ?_)
  rw [hblock]
  rfl

/-- The completion of an accepted command writes the result of its operands (R117). -/
theorem complete_startCipher_ready (d : Dir) : complete (startCipher d s) =
    { s with dout := bytes8 (Pending.result ⟨d, k64 s, b64 s⟩), done := true, pend := none } := by
  rw [startCipher_ready hready d]
  rfl

/-- After an accepted command and its completion, `DOUT` holds the result. -/
theorem dout_complete_startCipher (d : Dir) : (complete (startCipher d s)).dout =
    bytes8 (Pending.result ⟨d, k64 s, b64 s⟩) := by
  rw [complete_startCipher_ready hready d]

/-- A completed command leaves the key alone, so the next one is accepted under the same key, and its
block is the result where that is moved to `DIN`. -/
theorem feedBack_complete_startCipher (d : Dir) :
    Ready (feedBack (complete (startCipher d s))) ∧
    k64 (feedBack (complete (startCipher d s))) = k64 s ∧
    b64 (feedBack (complete (startCipher d s))) = Pending.result ⟨d, k64 s, b64 s⟩ := by
  rw [complete_startCipher_ready hready d]
  exact ⟨⟨rfl, hready.key_min, hready.key_max, hready.block⟩, rfl, be8_bytes8 _⟩

/-- A command, its result moved to `DIN`, then a command that undoes it: the first block is in `DOUT`
(R126). -/
theorem dout_roundTrip (d e : Dir)
    (hundo : ∀ k v : BitVec 64, Pending.result ⟨e, k, Pending.result ⟨d, k, v⟩⟩ = v) :
    (complete (startCipher e (feedBack (complete (startCipher d s))))).dout = s.din := by
  obtain ⟨hready', hkey, hblock⟩ := feedBack_complete_startCipher hready d
  rw [dout_complete_startCipher hready' e, hkey, hblock, hundo, b64, bytes8_be8]

end

/-- While an operation is pending, no transaction but `SRST` changes what is latched (R115). -/
theorem exec_keeps_pend (i : Instr) (s t : State) (p : Pending) (hp : s.pend = some p)
    (h : exec i s = .next t) (hi : i ≠ .srst) : t.pend = some p := by
  have hbusy : busy s = true := by simp [busy, hp]
  cases i with
  | invalid => cases h
  | srst => exact absurd rfl hi
  | enc | dec =>
    cases h
    rw [startCipher_busy _ s hbusy, raiseError_pend, hp]
  | rd | wr | wrKey | wrDin | wrKeylen | wrDinlen | ckin | cmdRsvd | nop | ckclr | clrerr =>
    cases h
    exact hp

end Sys2Proof.Machine
end

section
/-! SUPPORT. The statements on the cipher unit and on the DES function (41_cipher.md R111 to R128). -/

namespace Sys2Proof.Machine

/-! ### The cipher unit -/

/-- Settles O33: acceptance, the busy bit of `STATUS`, and every transaction but `SRST`. -/
theorem acceptanceLatchesTheOperands : Obligations.AcceptanceLatchesTheOperands := by
  refine ⟨fun s hready => ⟨?enc, ?dec⟩, fun s p hp => ⟨⟨status s, exec_rd s _, ?busy⟩, ?later⟩⟩
  case enc => exact (exec_command .enc s).trans (by rw [startCipher_ready hready])
  case dec => exact (exec_command .dec s).trans (by rw [startCipher_ready hready])
  case busy =>
    rw [(status_getLsbD s).1, busy, hp]
    rfl
  case later => exact fun i t h hi => exec_keeps_pend i s t p hp h hi

/-- Settles O34: the latched operands by `be8_byte` and `be8_fips_bit`, the result by
`bytes8_getElem`. -/
theorem byteOrderOfTheCipher : Obligations.ByteOrderOfTheCipher := by
  intro s d hready
  refine ⟨startCipher d s, ⟨d, k64 s, b64 s⟩, ?command, ?pend, rfl, fun i => ⟨?keyByte, ?dinByte⟩,
    fun i j hlo hhi => ⟨?dinBit, ?keyBit⟩, fun i => ?dout⟩
  case command => exact exec_command d s
  case pend => rw [startCipher_ready hready d]
  case keyByte => exact (be8_byte _ i).trans (keyHead_getElem s i)
  case dinByte => exact be8_byte s.din i
  case dinBit => exact be8_fips_bit s.din i j hlo hhi
  case keyBit =>
    rw [← keyHead_getElem s i]
    exact be8_fips_bit (keyHead s) i j hlo hhi
  case dout =>
    rw [dout_complete_startCipher hready d]
    exact bytes8_getElem _ i

/-- Settles O40: each direction undoes the other. -/
theorem encryptionRoundTrip : Obligations.EncryptionRoundTrip := fun s hready =>
  ⟨⟨_, _, exec_command .enc s, exec_command .dec (feedBack (complete (startCipher .enc s))),
    dout_roundTrip hready .enc .dec desDec_desEnc⟩,
   ⟨_, _, exec_command .dec s, exec_command .enc (feedBack (complete (startCipher .dec s))),
    dout_roundTrip hready .dec .enc desEnc_desDec⟩⟩

/-- Settles O41: the latched key and block of the two states are equal. -/
theorem resultDependsOnKeyHeadAndBlock : Obligations.ResultDependsOnKeyHeadAndBlock := by
  intro s t hs ht hkey hdin i hi
  have hk64 : k64 s = k64 t := by
    rw [k64, k64, show keyHead s = keyHead t from congrArg Vector.ofFn (funext hkey)]
  have hb64 : b64 s = b64 t := congrArg be8 hdin
  obtain ⟨d, rfl⟩ := exists_command i hi
  refine ⟨startCipher d s, startCipher d t, exec_command d s, exec_command d t, ?_⟩
  rw [dout_complete_startCipher hs d, dout_complete_startCipher ht d, hk64, hb64]

/-- Settles O50: acceptance whatever the key bytes, and the equal subkeys of the weak key. -/
theorem weakKeysAreAccepted : Obligations.WeakKeysAreAccepted := by
  refine ⟨fun s hready i hi => ?accepted, fun p => desEnc_desEnc_of_reverse _ p ?weak⟩
  case accepted =>
    obtain ⟨d, rfl⟩ := exists_command i hi
    refine ⟨_, exec_command d s, ?_⟩
    rw [startCipher_ready hready d]
    exact ⟨rfl, rfl, rfl⟩
  case weak => rw [keySchedule_weakKey, List.reverse_replicate]

/-! ### The DES function -/

/-- Settles O43, by the sequences of the rounds. -/
theorem desEncFollowsTheRounds : Obligations.DesEncFollowsTheRounds := by
  intro k p L R hL hR h
  have hlen := keySchedule_length k
  have hdes := desWith_of_sequences (keySchedule k) p L R hL hR (by rwa [hlen])
  rw [hlen] at hdes
  exact ⟨hlen, hdes⟩

/-- Settles O44: the sequences under the reversed schedule, and `desDec_desEnc`. -/
theorem desDecReversesTheSubkeys : Obligations.DesDecReversesTheSubkeys := by
  refine ⟨fun k c L R hL hR h => ?_, desDec_desEnc⟩
  have hlen : (keySchedule k).reverse.length = 16 := by simp
  have hdes := desWith_of_sequences (keySchedule k).reverse c L R hL hR fun i hi => by
    rw [hlen] at hi
    rw [getD_reverse_keySchedule k i hi]
    exact h i hi
  rwa [hlen] at hdes

/-- Settles O45: `rotl28` on numbers, the entries of `PC1`, the subkeys by sequences, and the sum 28
of the shifts. -/
theorem keyScheduleFollowsTheRotations : Obligations.KeyScheduleFollowsTheRotations := by
  refine ⟨fun x n _ => rotl28_toNat x n, pc1Table_mod_eight, fun k C D hC hD h => ⟨?subkeys, ?C, ?D⟩⟩
  case subkeys =>
    rw [keySchedule, ← hC, ← hD]
    exact subkeys_of_sequences shiftsTable C D h
  case C => exact sequence_shiftsTable_returns C fun i hi => (h i hi).1
  case D => exact sequence_shiftsTable_returns D fun i hi => (h i hi).2

/-- Settles O46: the nibbles of the substitution, each an entry of its S-box. -/
theorem roundFunctionBySBoxes : Obligations.RoundFunctionBySBoxes := by
  refine fun r k => ⟨substituteAll (permute eTable r ^^^ k), rfl, fun j S hS => ?_⟩
  rw [substituteAll_nibble _ j S hS]
  exact substitute_entry S (sBox_entry_lt S (List.mem_of_getElem? hS)) _

/-- Settles O48: the two keys have the same subkeys. -/
theorem keyParityIsIgnored : Obligations.KeyParityIsIgnored := by
  intro k l v h
  have hks := keySchedule_congr_parity k l h
  constructor
  · rw [desEnc, desEnc, hks]
  · rw [desDec, desDec, hks]

/-- Settles O49: complemented subkeys on the complemented block. -/
theorem desComplementation : Obligations.DesComplementation := by
  intro k p
  rw [desEnc, keySchedule_not, desWith_not, desEnc]

end Sys2Proof.Machine
end

section
/-! SUPPORT. The statement on the tables of the DES function (42_des_tables.md R131). -/

namespace Sys2Proof.Machine

/-- Settles O47: each entry of `FP` names the position that `IP` took its bit from, checked once for
the 64 positions in `permute_fpTable_ipTable`; the value of the block plays no part. -/
theorem finalPermutationUndoesInitial : Obligations.FinalPermutationUndoesInitial :=
  permute_fpTable_ipTable

end Sys2Proof.Machine
end

section
/-! SUPPORT. Sums and XORs of lists of bytes (43_checksum.md R150, R156): by the list's parts, in any
order, and of a frame whose checksum byte is patched. -/

namespace Sys2Proof.Frames

@[simp] theorem byteSum_nil : byteSum [] = 0 := rfl

@[simp] theorem byteSum_cons (b : Byte) (bs : List Byte) :
    byteSum (b :: bs) = b.toNat + byteSum bs := by
  simp [byteSum]

@[simp] theorem byteSum_append (bs cs : List Byte) :
    byteSum (bs ++ cs) = byteSum bs + byteSum cs := by
  simp [byteSum]

theorem byteSum_perm {bs cs : List Byte} (h : bs.Perm cs) : byteSum bs = byteSum cs :=
  (h.map _).sum_eq

@[simp] theorem byteXor_nil : byteXor [] = 0x00 := rfl

@[simp] theorem byteXor_cons (b : Byte) (bs : List Byte) :
    byteXor (b :: bs) = b ^^^ byteXor bs := rfl

@[simp] theorem byteXor_append (bs cs : List Byte) :
    byteXor (bs ++ cs) = byteXor bs ^^^ byteXor cs := by
  induction bs with
  | nil => simp
  | cons b bs ih => simp [ih, BitVec.xor_assoc]

theorem byteXor_perm {bs cs : List Byte} (h : bs.Perm cs) : byteXor bs = byteXor cs :=
  h.foldr_eq _

/-- The XOR taken from the left. -/
theorem byteXor_eq_foldl (bs : List Byte) : byteXor bs = bs.foldl (· ^^^ ·) 0x00 :=
  List.foldl_eq_foldr.symm

/-- Where each byte value occurs an even number of times, the first byte occurs again, and the two
cancel (R156). -/
theorem byteXor_eq_zero_of_even (bs : List Byte) (h : ∀ b, Even (bs.count b)) :
    byteXor bs = 0x00 := by
  match bs with
  | [] => rfl
  | b :: cs =>
    have hmem : b ∈ cs := by
      have hodd := h b
      rw [List.count_cons_self, Nat.even_add_one] at hodd
      by_contra hnot
      exact hodd (List.count_eq_zero.mpr hnot ▸ Even.zero)
    have hpair := List.perm_cons_erase hmem
    have heven : ∀ a, Even ((cs.erase b).count a) := fun a => by
      have ha := h a
      rw [List.count_cons, hpair.count_eq, List.count_cons, add_assoc, Nat.even_add] at ha
      exact ha.mpr ⟨_, rfl⟩
    have hlen : (cs.erase b).length ≤ cs.length := List.length_erase_le
    calc byteXor (b :: cs)
      _ = b ^^^ (b ^^^ byteXor (cs.erase b)) := by rw [byteXor_cons, byteXor_perm hpair, byteXor_cons]
      _ = byteXor (cs.erase b) := by rw [← BitVec.xor_assoc, BitVec.xor_self, BitVec.zero_xor]
      _ = 0x00 := byteXor_eq_zero_of_even (cs.erase b) heven
termination_by bs.length
decreasing_by exact Nat.lt_succ_of_le hlen

/-- A patched frame is the frame without the byte at the checksum's place, and the checksum byte
(R169). -/
theorem byteSum_patchChecksum (f : List Byte) (c : Byte) (h : 2 ≤ f.length) :
    byteSum (patchChecksum f c) = c.toNat + byteSum (f.eraseIdx (f.length - 2)) := by
  rw [patchChecksum, byteSum_perm (List.set_perm_cons_eraseIdx (by omega) c), byteSum_cons]

end Sys2Proof.Frames
end

section
/-! SUPPORT. The checksum unit, said once (43_checksum.md R151 to R159): what an absorbed stream leaves
in it, and the bytes read from it. -/

namespace Sys2Proof.Machine

open Sys2Proof.Frames

/-! ### Absorbing -/

/-- `CKIN` (R151). -/
theorem exec_ckin (b : Byte) (s : State) : exec (.ckin b) s = .next (absorb b s) := rfl

/-- `CKCLR` (R154). -/
theorem exec_ckclr (s : State) : exec .ckclr s = .next (clearChecksum s) := rfl

/-- A stream adds its sum and XORs its XOR, and changes nothing else (R151). -/
theorem execAll_ckin (bs : List Byte) (s : State) :
    execAll (bs.map .ckin) s = .next { s with
      sum16 := s.sum16 + BitVec.ofNat 16 (byteSum bs)
      xor8 := s.xor8 ^^^ byteXor bs } := by
  induction bs generalizing s with
  | nil => simp [execAll]
  | cons b bs ih =>
    rw [List.map_cons, execAll_cons _ _ _ _ (exec_ckin b s), ih]
    simp [absorb, BitVec.ofNat_add, BitVec.add_assoc, BitVec.xor_assoc]

/-- A stream into the cleared unit (R154, R156). -/
theorem execAll_ckclr_ckin (bs : List Byte) (s : State) :
    execAll (.ckclr :: bs.map .ckin) s = .next { s with
      sum16 := BitVec.ofNat 16 (byteSum bs)
      xor8 := byteXor bs } := by
  rw [execAll_cons _ _ _ _ (exec_ckclr s), execAll_ckin]
  simp [clearChecksum]

/-! ### Reading the checksum bytes -/

theorem exec_rd_sumLo (s : State) :
    exec (.rd 0x05) s = .next { s with reads := sumLo s :: s.reads } := exec_rd s Reg.sumLo.addr

theorem exec_rd_ckchk (s : State) :
    exec (.rd 0x08) s = .next { s with reads := ckchk s :: s.reads } := exec_rd s Reg.ckchk.addr

theorem exec_rd_ckcpl (s : State) :
    exec (.rd 0x09) s = .next { s with reads := ckcpl s :: s.reads } := exec_rd s Reg.ckcpl.addr

/-- `CKCHK` is the two's complement of `SUM_LO` (R152). -/
theorem ckchk_eq_neg_sumLo (s : State) : ckchk s = -sumLo s := by
  apply BitVec.eq_of_toNat_eq
  rw [ckchk_toNat, BitVec.toNat_neg, sumLo_toNat]

/-- `CKCPL` is the one's complement of `SUM_LO` (R153). -/
theorem ckcpl_eq_not_sumLo (s : State) : ckcpl s = ~~~sumLo s := by
  apply BitVec.eq_of_toNat_eq
  rw [ckcpl_toNat, BitVec.toNat_not, sumLo_toNat]

section
variable {bs : List Byte} {s t : State} (h : execAll (.ckclr :: bs.map .ckin) s = .next t)
include h

theorem xor8_of_stream : t.xor8 = byteXor bs := by
  rw [execAll_ckclr_ckin] at h
  cases h
  rfl

/-- `SUM_LO` after a stream, as a number (R150). -/
theorem sumLo_toNat_of_stream : (sumLo t).toNat = byteSum bs % 256 := by
  rw [execAll_ckclr_ckin] at h
  cases h
  rw [sumLo_toNat, BitVec.toNat_ofNat]
  omega

/-- `CKCHK` after a stream, as a number (R152). -/
theorem ckchk_toNat_of_stream : (ckchk t).toNat = (256 - byteSum bs % 256) % 256 := by
  rw [ckchk_eq_neg_sumLo, BitVec.toNat_neg, sumLo_toNat_of_stream h]

theorem sumLo_eq_zero_iff_of_stream : sumLo t = 0x00 ↔ byteSum bs % 256 = 0 := by
  rw [← BitVec.toNat_inj, sumLo_toNat_of_stream h]
  rfl

theorem ckchk_eq_zero_iff_of_stream : ckchk t = 0x00 ↔ byteSum bs % 256 = 0 := by
  rw [ckchk_eq_neg_sumLo, ← sumLo_eq_zero_iff_of_stream h]
  exact BitVec.neg_eq_zero_iff

/-- `CKCHK` completes the stream's sum to 0 modulo 256 (R158). -/
theorem ckchk_add_byteSum_of_stream : ((ckchk t).toNat + byteSum bs) % 256 = 0 := by
  rw [ckchk_toNat_of_stream h]
  omega

end

/-! ### The two units -/

/-- The other unit's commands do not touch the checksum unit (R159). -/
theorem startCipher_keeps_checksum (d : Dir) (s : State) :
    (startCipher d s).sum16 = s.sum16 ∧ (startCipher d s).xor8 = s.xor8 := by
  obtain ⟨-, h⟩ | ⟨-, -, h⟩ | ⟨-, -, -, h⟩ | ⟨-, -, -, h⟩ := startCipher_cases d s <;>
    rw [h] <;> exact ⟨rfl, rfl⟩

theorem complete_keeps_checksum (s : State) :
    (complete s).sum16 = s.sum16 ∧ (complete s).xor8 = s.xor8 := by
  cases hp : s.pend with
  | none => rw [complete_none s hp]; exact ⟨rfl, rfl⟩
  | some p => rw [complete_some s p hp]; exact ⟨rfl, rfl⟩

/-- A cipher command does not read the checksum unit (R159). -/
theorem startCipher_with_checksum (d : Dir) (s : State) (x : BitVec 16) (y : Byte) :
    startCipher d { s with sum16 := x, xor8 := y } =
      { startCipher d s with sum16 := x, xor8 := y } := by
  obtain ⟨hb, h⟩ | ⟨hb, hk, h⟩ | ⟨hb, hk, hd, h⟩ | ⟨hb, hk, hd, h⟩ := startCipher_cases d s <;> rw [h]
  · exact startCipher_busy d _ hb
  · exact startCipher_badKey d _ hb hk
  · exact startCipher_badBlock d _ hb hk hd
  · exact startCipher_accepts d _ hb hk hd

/-- A completion does not read the checksum unit (R159). -/
theorem complete_with_checksum (s : State) (x : BitVec 16) (y : Byte) :
    complete { s with sum16 := x, xor8 := y } = { complete s with sum16 := x, xor8 := y } := by
  obtain hp | ⟨p, hp⟩ := Option.eq_none_or_eq_some s.pend
  · rw [complete_none s hp]; exact complete_none { s with sum16 := x, xor8 := y } hp
  · rw [complete_some s p hp]; exact complete_some { s with sum16 := x, xor8 := y } p hp

/-- Only `CKIN`, `CKCLR` and `SRST` write the checksum unit (R159). -/
theorem exec_keeps_checksum (i : Instr) (s t : State) (h : exec i s = .next t)
    (hi : i.mnemonic ∉ [.CKIN, .CKCLR, .SRST]) : t.sum16 = s.sum16 ∧ t.xor8 = s.xor8 := by
  cases i with
  | invalid top low => cases h
  | rd | wr | wrKey | wrDin | wrKeylen | wrDinlen | cmdRsvd | nop | clrerr =>
    cases h
    exact ⟨rfl, rfl⟩
  | enc | dec =>
    cases h
    exact startCipher_keeps_checksum _ s
  | ckin | ckclr | srst => exact absurd (by simp [Instr.mnemonic]) hi

end Sys2Proof.Machine
end

section
/-! SUPPORT. The host's checksum procedures (43_checksum.md R169, R170): what their lines run, and what
they read. -/

namespace Sys2Proof.Machine

open Sys2Proof.Frames

@[simp] theorem transactions_append (p q : List HostOp) :
    transactions (p ++ q) = transactions p ++ transactions q := by
  induction p with
  | nil => rfl
  | cons op p ih => cases op <;> simp [transactions, ih]

@[simp] theorem assemble_cons (l : AsmLine) (ls : List AsmLine) :
    assemble (l :: ls) = l.expand ++ assemble ls := by
  simp [assemble]

@[simp] theorem assemble_append (ls ms : List AsmLine) :
    assemble (ls ++ ms) = assemble ls ++ assemble ms := by
  simp [assemble]

/-- The lines `CKIN b` of a stream. -/
@[simp] theorem transactions_assemble_ckin (bs : List Byte) :
    transactions (assemble (bs.map .ckin)) = bs.map .ckin := by
  induction bs with
  | nil => rfl
  | cons b bs ih =>
    have hline : transactions (AsmLine.ckin b).expand = [.ckin b] :=
      congrArg (· :: []) (decode_writeWord Reg.ckIn.addr b)
    rw [List.map_cons, assemble_cons, transactions_append, hline, ih]
    rfl

/-- The lines that clear the unit, absorb a stream and read a register. -/
theorem transactions_assemble_sum (bs : List Byte) (r : Reg) :
    transactions (assemble (.ckclr :: bs.map .ckin ++ [.rd r])) =
      (.ckclr :: bs.map .ckin) ++ [.rd r.addr] := by
  have hclear : transactions AsmLine.ckclr.expand = [.ckclr] :=
    congrArg (· :: []) (decode_writeWord Reg.cmd.addr 0x40)
  have hread : transactions (assemble [.rd r]) = [.rd r.addr] :=
    congrArg (· :: []) (decode_busWord_read r.addr 0x00)
  rw [assemble_append, assemble_cons, transactions_append, transactions_append, hclear, hread,
    transactions_assemble_ckin]
  rfl

/-- Running them absorbs the stream, then reads the register in the state that it leaves. -/
theorem execAll_sum_lines (bs : List Byte) (r : Reg) (s : State) : ∃ u,
    execAll (.ckclr :: bs.map .ckin) s = .next u ∧ u.reads = s.reads ∧
    u.err = s.err ∧ u.errcode = s.errcode ∧
    execAll (transactions (assemble (.ckclr :: bs.map .ckin ++ [.rd r]))) s =
      .next (returnByte (readValue u r.addr) u) := by
  have hstream := execAll_ckclr_ckin bs s
  refine ⟨_, hstream, rfl, rfl, rfl, ?_⟩
  rw [transactions_assemble_sum, execAll_append _ _ _ _ hstream]
  rfl

/-- R169: the generated byte, patched, makes the frame sum to 0 modulo 256. -/
theorem checksumLines_generates (f : List Byte) (s : State) (hlen : 2 ≤ f.length) :
    ∃ (t : State) (c : Byte), execAll (transactions (assemble (checksumLines f))) s = .next t ∧
      t.reads = c :: s.reads ∧ byteSum (patchChecksum f c) % 256 = 0 := by
  obtain ⟨u, hstream, hreads, -, -, hrun⟩ :=
    execAll_sum_lines (f.eraseIdx (f.length - 2)) .ckchk s
  refine ⟨_, ckchk u, hrun, congrArg (ckchk u :: ·) hreads, ?_⟩
  rw [byteSum_patchChecksum f _ hlen]
  exact ckchk_add_byteSum_of_stream hstream

/-- R170: the byte read is 0x00 exactly when the frame sums to 0 modulo 256; so is `CKCHK`, and no
error is raised. -/
theorem checkLines_checks (f : List Byte) (s : State) : ∃ (t : State) (c : Byte),
    execAll (transactions (assemble (checkLines f))) s = .next t ∧ t.reads = c :: s.reads ∧
    (c = 0x00 ↔ byteSum f % 256 = 0) ∧
    (∃ k : Byte, exec (.rd 0x08) t = .next { t with reads := k :: t.reads } ∧
      (k = 0x00 ↔ byteSum f % 256 = 0)) ∧
    t.err = s.err ∧ t.errcode = s.errcode := by
  obtain ⟨u, hstream, hreads, herr, hcode, hrun⟩ := execAll_sum_lines f .sumLo s
  exact ⟨_, sumLo u, hrun, congrArg (sumLo u :: ·) hreads, sumLo_eq_zero_iff_of_stream hstream,
    ⟨ckchk u, exec_rd_ckchk _, ckchk_eq_zero_iff_of_stream hstream⟩, herr, hcode⟩

end Sys2Proof.Machine
end

section
/-! SUPPORT. The statements on the checksum unit and on the frames that the host sums with it
(43_checksum.md). -/

namespace Sys2Proof.Machine

open Sys2Proof.Frames

/-- Settles O26: the two complements of `SUM_LO`, then `CKCHK` after a stream. -/
theorem checksumAndComplementBytes : Obligations.ChecksumAndComplementBytes := by
  refine ⟨fun s => ?complements, fun bs s t h => ⟨ckchk t, exec_rd_ckchk t, ckchk_toNat_of_stream h,
    ckchk_eq_zero_iff_of_stream h⟩⟩
  case complements =>
    refine ⟨ckchk s, ckcpl s, sumLo s, exec_rd_sumLo s, exec_rd_ckchk s, exec_rd_ckcpl s, ?_⟩
    rw [ckchk_eq_neg_sumLo, ckcpl_eq_not_sumLo]
    generalize sumLo s = l
    have hneg : -l = ~~~l + 1 := BitVec.neg_eq_not_add l
    refine ⟨hneg, ?sum, rfl, by rw [hneg, BitVec.add_sub_cancel], ?complement⟩
    case sum => rw [← BitVec.toNat_add, BitVec.add_right_neg]; rfl
    case complement =>
      have hlt := l.isLt
      rw [BitVec.toNat_not]
      omega

/-- Settles O27: `XOR8` is the stream's XOR, and in an even stream the bytes cancel in pairs. -/
theorem evenStreamsCancelInXor : Obligations.EvenStreamsCancelInXor := by
  intro bs s t h
  rw [xor8_of_stream h]
  exact ⟨byteXor_eq_foldl bs, fun hnil => hnil ▸ byteXor_nil, byteXor_eq_zero_of_even bs⟩

/-- Settles O28: a stream acts by its sum and its XOR, which do not see the order nor a 0x00. -/
theorem absorbOrderDoesNotMatter : Obligations.AbsorbOrderDoesNotMatter := by
  refine ⟨fun bs cs s hperm => ?_, fun bs cs s => ?_⟩
  · rw [execAll_ckin, execAll_ckin, byteSum_perm hperm, byteXor_perm hperm]
  · have hsum : byteSum (bs ++ 0x00 :: cs) = byteSum (bs ++ cs) := by simp
    have hxor : byteXor (bs ++ 0x00 :: cs) = byteXor (bs ++ cs) := by simp
    rw [execAll_ckin, execAll_ckin, hsum, hxor]

/-- Settles O29: absorbing `CKCHK` after the stream is absorbing one longer stream, which sums to 0. -/
theorem checksumByteCompletesTheSum : Obligations.ChecksumByteCompletesTheSum := by
  intro bs s t h
  have hsum : byteSum (bs ++ [ckchk t]) % 256 = 0 := by
    rw [byteSum_append, byteSum_cons, byteSum_nil, Nat.add_zero, Nat.add_comm]
    exact ckchk_add_byteSum_of_stream h
  have hstream : execAll (.ckclr :: (bs ++ [ckchk t]).map .ckin) s = .next (absorb (ckchk t) t) := by
    rw [List.map_append, ← List.cons_append, execAll_append _ _ _ _ h]
    rfl
  refine ⟨ckchk t, absorb (ckchk t) t, exec_rd_ckchk t, hsum, exec_ckin _ t, ?sumLo, ?ckchk⟩
  case sumLo => rw [exec_rd_sumLo, (sumLo_eq_zero_iff_of_stream hstream).mpr hsum]
  case ckchk => rw [exec_rd_ckchk, (ckchk_eq_zero_iff_of_stream hstream).mpr hsum]

/-- Settles O30: the generating procedure, and the checking one. -/
theorem frameChecksumProcedures : Obligations.FrameChecksumProcedures :=
  ⟨checksumLines_generates, checkLines_checks⟩

/-- Settles O32: neither unit's operations write or read the other's state. -/
theorem unitsAreIndependent : Obligations.UnitsAreIndependent := by
  refine ⟨exec_keeps_checksum, complete_keeps_checksum, fun i s t x y hi h => ?cipher,
    fun b s _ => ⟨⟨absorb b s, exec_ckin b s, rfl⟩, clearChecksum s, exec_ckclr s, rfl⟩⟩
  case cipher =>
    refine ⟨?_, complete_with_checksum s x y⟩
    simp only [List.mem_cons, List.not_mem_nil, or_false] at hi
    obtain rfl | rfl := hi <;> cases h <;>
      exact congrArg Host.Outcome.next (startCipher_with_checksum _ s x y)

/-- Settles O23: the sum as a number, and 0x00 as the neutral byte of both. -/
theorem absorbAddsAndXors : Obligations.AbsorbAddsAndXors := by
  refine fun s b => ⟨decode_writeWord Reg.ckIn.addr b, ?sum, ?zero⟩
  case sum =>
    have hsum : s.sum16 + b.setWidth 16 = BitVec.ofNat 16 ((s.sum16.toNat + b.toNat) % 2 ^ 16) := by
      apply BitVec.eq_of_toNat_eq
      simp
    rw [exec_ckin, absorb, hsum]
  case zero =>
    rintro rfl
    simp [exec_ckin, absorb]

/-- Settles O24: the command's word, and its meaning. -/
theorem ckclrClearsTheUnit : Obligations.CkclrClearsTheUnit :=
  ⟨decode_writeWord Reg.cmd.addr 0x40, exec_ckclr⟩

/-- The handshake frame written out (R162). -/
theorem handshakeFrame_eq (hdr : Vector Byte 4) (cipher : Vector Byte 8) (chk : Byte) :
    handshakeFrame hdr cipher chk =
      ([0xA5, 0x14, 0x05, hdr[0], hdr[1], hdr[2], hdr[3], 0x00, 0x01, 0x07, cipher[0], cipher[1],
       cipher[2], cipher[3], cipher[4], cipher[5], cipher[6], cipher[7], chk, 0x5A] : List Byte) := by
  have hhdr : hdr.toList = [hdr[0], hdr[1], hdr[2], hdr[3]] :=
    List.ext_getElem (by simp) fun i _ (hi : i < 4) => by interval_cases i <;> rfl
  have hcipher : cipher.toList = [cipher[0], cipher[1], cipher[2], cipher[3], cipher[4], cipher[5],
      cipher[6], cipher[7]] :=
    List.ext_getElem (by simp) fun i _ (hi : i < 8) => by interval_cases i <;> rfl
  rw [handshakeFrame, frame, hhdr, hcipher]
  rfl

/-- Settles O31: the frame written out, and R169's procedure on it. -/
theorem handshakeFrameLayout : Obligations.HandshakeFrameLayout := by
  intro hdr cipher chk
  have hlen : ∀ c, (handshakeFrame hdr cipher c).length = 20 := fun c => by
    rw [handshakeFrame_eq]; rfl
  have hpatch : ∀ c, patchChecksum (handshakeFrame hdr cipher 0x00) c = handshakeFrame hdr cipher c :=
    fun c => by rw [handshakeFrame_eq, handshakeFrame_eq]; rfl
  refine ⟨handshakeFrame_eq hdr cipher chk, hlen chk, hpatch, fun s => ?_⟩
  obtain ⟨t, c, hrun, hreads, hsum⟩ :=
    checksumLines_generates (handshakeFrame hdr cipher 0x00) s (by rw [hlen]; decide)
  exact ⟨t, c, hrun, hreads, hpatch c ▸ hsum⟩

end Sys2Proof.Machine
end

section
/-! SUPPORT. The control commands, said once (44_control.md R180 to R183): the words of the commands,
the meaning of each control command, which error code a transaction can record, and a block at reset. -/

namespace Sys2Proof.Machine

/-! ### The words of the commands -/

/-- The high byte 0x80 is that of a write to `CMD` (30_encoding.md R74). -/
theorem decode_append_command (c : Byte) : decode (0x80#8 ++ c) = decodeCommand c :=
  decode_writeWord Reg.cmd.addr c

/-- A code that is none of the six defined ones is reserved (30_encoding.md R75). -/
theorem decodeCommand_reserved (c : Byte) (hc : c ∉ [0x00, 0x01, 0x02, 0x40, 0xC0, 0xC1]) :
    decodeCommand c = .cmdRsvd c := by
  obtain ⟨rfl, -⟩ | ⟨rfl, -⟩ | ⟨rfl, -⟩ | ⟨rfl, -⟩ | ⟨rfl, -⟩ | ⟨rfl, -⟩ | ⟨-, h⟩ :=
    decodeCommand_cases c
  case inr.inr.inr.inr.inr.inr => exact h
  all_goals exact absurd (by decide) hc

/-! ### The meanings -/

/-- `NOP` (R182). -/
theorem exec_nop (s : State) : exec .nop s = .next s := rfl

/-- `CLRERR` (R180). -/
theorem exec_clrerr (s : State) : exec .clrerr s = .next (clearError s) := rfl

/-- `SRST` (R181). -/
theorem exec_srst (s : State) : exec .srst s = .next (resetState s) := rfl

/-- A reserved code (R183). -/
theorem exec_cmdRsvd (c : Byte) (s : State) :
    exec (.cmdRsvd c) s = .next (raiseError .illegalCommand s) := rfl

/-! ### The error code a transaction can record -/

/-- A cipher command records its own errors, `InvalidKey`, `InvalidBlock` and `Busy`, or none
(60_exceptions.md R191). -/
theorem startCipher_errcode_cases (d : Dir) (s : State) :
    (startCipher d s).errcode = s.errcode ∨ (startCipher d s).errcode ∈ [0x01, 0x02, 0x04] := by
  obtain ⟨-, h⟩ | ⟨-, -, h⟩ | ⟨-, -, -, h⟩ | ⟨-, -, -, h⟩ := startCipher_cases d s <;> rw [h]
  case inr.inr.inr => exact .inl rfl
  all_goals exact .inr (by simp [errorCode])

/-- Only a reserved code makes the record say `IllegalCommand` (60_exceptions.md R194): a cipher command
has other codes, the two clearing commands record 0x00, and no other transaction writes the record. -/
theorem mnemonic_of_illegalCommand (i : Instr) (s t : State) (h : exec i s = .next t)
    (ht : t.errcode = 0x03) (hs : s.errcode ≠ 0x03) : i.mnemonic = .CMD_RSVD := by
  cases i with
  | invalid => cases h
  | cmdRsvd => rfl
  | enc | dec =>
    cases h
    obtain hsame | hown := startCipher_errcode_cases _ s
    · exact absurd (hsame.symm.trans ht) hs
    · rw [ht] at hown
      exact absurd hown (by decide)
  | clrerr | srst =>
    cases h
    cases ht
  | rd | wr | wrKey | wrDin | wrKeylen | wrDinlen | ckin | nop | ckclr =>
    cases h
    exact absurd ht hs

/-! ### A block at reset -/

/-- `STATUS` of a block at reset: no flag is set (R181). -/
theorem readValue_status_resetState (s : State) : readValue (resetState s) 0x01 = 0x00 :=
  calc readValue (resetState s) Reg.status.addr
    _ = status State.reset := readValue_addr _ .status rfl
    _ = 0x00 := by decide

/-- Reset abandons a pending operation, so the engine has nothing to complete
(70_reset_and_hazards.md R221). -/
theorem complete_resetState (s : State) : complete (resetState s) = resetState s :=
  complete_none _ rfl

/-- Reset erases `KEYLEN`, so a cipher command is rejected for its key (R181). -/
theorem startCipher_resetState (d : Dir) (s : State) :
    startCipher d (resetState s) = raiseError .invalidKey (resetState s) :=
  startCipher_badKey d _ rfl rfl

end Sys2Proof.Machine
end

section
/-! SUPPORT. The statements on the control commands (44_control.md R180 to R183). -/

namespace Sys2Proof.Machine

/-- Settles O15: the decoder on a reserved code, its meaning, and the transactions row by row. -/
theorem reservedCodesRaiseIllegalCommand : Obligations.ReservedCodesRaiseIllegalCommand :=
  ⟨fun c hc => (decode_append_command c).trans (decodeCommand_reserved c hc), exec_cmdRsvd,
    mnemonic_of_illegalCommand⟩

/-- Settles O14: the command's word, and its meaning. -/
theorem nopChangesNothing : Obligations.NopChangesNothing :=
  ⟨decode_append_command 0x00, exec_nop⟩

/-- Settles O16: the command's word, and its meaning. -/
theorem clrerrClearsTheErrorRecord : Obligations.ClrerrClearsTheErrorRecord :=
  ⟨decode_append_command 0xC0, exec_clrerr⟩

/-- Settles O19: the state that `SRST` answers is the block at reset, and the reset input's is the same
but for the input's level. -/
theorem softResetGivesTheResetState : Obligations.SoftResetGivesTheResetState := by
  refine ⟨decode_append_command 0xC1, fun s => ⟨resetState s, rfl, exec_srst s, ?status, ?engine,
    ?resetInput, ?enc, ?dec⟩⟩
  case status => rw [exec_rd, readValue_status_resetState]
  case engine => exact congrArg Host.Outcome.next (complete_resetState s)
  case resetInput =>
    rintro u ⟨⟩
    exact ⟨rfl, congrArg Host.Outcome.next (complete_none _ rfl)⟩
  case enc => exact congrArg Host.Outcome.next (startCipher_resetState .enc s)
  case dec => exact congrArg Host.Outcome.next (startCipher_resetState .dec s)

end Sys2Proof.Machine
end

section
/-! SUPPORT. The error record and the turns of the agents, said once (60_exceptions.md R192 to R196): when
the operand checks fail, which transactions raise nothing, and a turn that the schedule lists. -/

namespace Sys2Proof.Machine

/-! ### The operand checks -/

/-- `KEYOK` is 0 exactly outside the range of R26. -/
theorem keyok_eq_false_iff (s : State) :
    keyok s = false ↔ s.keylen.toNat < 8 ∨ 16 < s.keylen.toNat := by
  rw [← Bool.not_eq_true, keyok_iff]
  omega

/-- `BLKOK` is 0 exactly when `DINLEN` is not 8 (10_state.md R26). -/
theorem blkok_eq_false_iff (s : State) : blkok s = false ↔ s.dinlen ≠ 0x08 := by
  rw [← Bool.not_eq_true, blkok_iff, ne_eq, ← BitVec.toNat_inj]
  rfl

/-! ### The error record -/

/-- A transaction that is neither a cipher command nor a reserved code keeps the error record or clears
it (60_exceptions.md R196). -/
theorem exec_keeps_or_clears_error (i : Instr) (s t : State)
    (hi : i.mnemonic ∉ [.ENC, .DEC, .CMD_RSVD]) (h : exec i s = .next t) :
    (t.err = s.err ∧ t.errcode = s.errcode) ∨ (t.err = false ∧ t.errcode = 0x00) := by
  cases i with
  | invalid => cases h
  | enc | dec | cmdRsvd => exact absurd (by simp [Instr.mnemonic]) hi
  | clrerr | srst =>
    cases h
    exact .inr ⟨rfl, rfl⟩
  | rd | wr | wrKey | wrDin | wrKeylen | wrDinlen | ckin | nop | ckclr =>
    cases h
    exact .inl ⟨rfl, rfl⟩

/-! ### A listed turn -/

/-- A host with nothing left to issue has a valid program. -/
theorem validProgram_nil {s : State} (h : s.program = []) : ValidProgram s := by
  rw [ValidProgram, h]
  rfl

section
variable {s : State} (hvalid : ValidProgram s)
include hvalid

/-- A step with a listed turn is that turn. -/
theorem step_listed_turn {turn : Turn} {l : List Turn} (hl : s.schedule = turn :: l) :
    step s = takeTurn turn (setSchedule l s) := by
  rw [step_eq_nextTurn s hvalid, nextTurn, hl]

/-- A listed turn of the engine completes the pending operation (41_cipher.md R117). -/
theorem step_engine_pending {p : Pending} {l : List Turn} (hl : s.schedule = .engine :: l)
    (hp : s.pend = some p) : step s =
      .next { s with dout := bytes8 p.result, done := true, pend := none, schedule := l } := by
  rw [step_listed_turn hvalid hl, takeTurn, complete_some (setSchedule l s) p hp]
  rfl

/-- A listed turn of the host, outside reset, runs its next transaction (40_bus_access.md R100). -/
theorem step_host_transaction {w : Word} {rest : List HostOp} {l : List Turn}
    (hl : s.schedule = .host :: l) (hw : s.program = .txn w :: rest) (hpin : s.resetPin = false) :
    step s = exec (decode w) { s with program := rest, schedule := l } := by
  rw [step_listed_turn hvalid hl, takeTurn]
  simp only [hostTurn, setSchedule_program, hw, setSchedule_resetPin, hpin]
  rw [if_neg Bool.false_ne_true, setProgram, setSchedule, hpin]

end

/-- Two steps, one after the other. -/
theorem steps_two {s t u : State} (hst : step s = .next t) (htu : step t = .next u) :
    steps 2 s = .next u :=
  (steps_succ 1 s t hst).trans (steps_succ 0 t u htu)

/-! ### The host's turn with `ENC` as its last transaction -/

section
variable {s : State} {l : List Turn} (hl : s.schedule = .host :: l) (hprog : s.program = [.txn 0x8001])
  (hpin : s.resetPin = false)
include hprog

/-- A program that is the one word 0x8001 is valid. -/
theorem validProgram_enc : ValidProgram s := by
  rw [ValidProgram, hprog]
  rfl

include hl hpin

/-- The word 0x8001 starts the cipher (30_encoding.md R74; 41_cipher.md R114). -/
theorem step_host_enc : step s = .next (startCipher .enc { s with program := [], schedule := l }) := by
  have henc : decode 0x8001 = Dir.command .enc := decode_append_command 0x01
  rw [step_host_transaction (validProgram_enc hprog) hl hprog hpin, henc, exec_command]

/-- In a ready state the `ENC` is accepted (R115). -/
theorem step_host_enc_ready (hready : Ready s) : step s = .next { s with
    done := false, pend := some ⟨.enc, k64 s, b64 s⟩, program := [], schedule := l } := by
  have hready' : Ready { s with program := [], schedule := l } :=
    ⟨hready.idle, hready.key_min, hready.key_max, hready.block⟩
  rw [step_host_enc hl hprog hpin, startCipher_ready hready']
  rfl

/-- While an operation is pending the `ENC` is rejected with `Busy` and the operation stays
(60_exceptions.md R195). -/
theorem step_host_enc_busy {p : Pending} (hp : s.pend = some p) : step s = .next { s with
    err := true, errcode := 0x04, program := [], schedule := l } := by
  rw [step_host_enc hl hprog hpin, startCipher_busy .enc _ (by simp [busy, hp])]
  rfl

end

end Sys2Proof.Machine
end

section
/-! SUPPORT. The statements on errors (60_exceptions.md R192 to R197, R202). -/

namespace Sys2Proof.Machine

/-- Settles O17: the reserved codes; then a cipher command check by check, in the order of R196; then
every other transaction. -/
theorem oneErrorPerCommandInOrder : Obligations.OneErrorPerCommandInOrder := by
  refine fun s => ⟨fun c hc => ?reserved, fun i hi => ?cipher, fun i t => exec_keeps_or_clears_error i s t⟩
  case reserved => rw [decode_append_command, decodeCommand_reserved c hc]; rfl
  case cipher =>
    obtain ⟨d, rfl⟩ := exists_command i hi
    rw [exec_command]
    refine ⟨fun hp => ?busy, fun hp hk => ?invalidKey, fun hp hmin hmax hd => ?invalidBlock,
      fun hready => ⟨_, rfl, ?accepted⟩⟩
    case busy => rw [startCipher_busy d s ((busy_eq_true_iff s).mpr hp)]; rfl
    case invalidKey =>
      rw [startCipher_badKey d s ((busy_eq_false_iff s).mpr hp) ((keyok_eq_false_iff s).mpr hk)]
      rfl
    case invalidBlock =>
      rw [startCipher_badBlock d s ((busy_eq_false_iff s).mpr hp) ((keyok_iff s).mpr ⟨hmin, hmax⟩)
        ((blkok_eq_false_iff s).mpr hd)]
      rfl
    case accepted => rw [startCipher_ready hready]; exact ⟨rfl, rfl⟩

/-- Settles O36, step by step: a completion leaves a ready state, where `ENC` is accepted; an `ENC`
before it is rejected as busy and leaves the operation pending. -/
theorem bothOrdersOfCompletionAreRuns : Obligations.BothOrdersOfCompletionAreRuns := by
  intro s p hp hpin ⟨_, hmin, hmax, hblock⟩ hprog
  refine ⟨fun hl => ?engineFirst, fun hl => ?hostFirst⟩
  case engineFirst =>
    exact steps_two (step_engine_pending (validProgram_enc hprog) hl hp)
      (step_host_enc_ready rfl hprog hpin ⟨rfl, hmin, hmax, hblock⟩)
  case hostFirst =>
    exact steps_two (step_host_enc_busy hl hprog hpin hp)
      (step_engine_pending (validProgram_nil rfl) rfl hp)

end Sys2Proof.Machine
end

section
/-! SUPPORT. What is read of a block at reset, and the host's turn while the reset input is asserted
(70_reset_and_hazards.md R220, R223). -/

namespace Sys2Proof

/-- `CKCPL` is at address 0x09 and at no other (10_state.md R24). -/
theorem Reg.ofAddr_eq_ckcpl_iff (a : Addr) : Reg.ofAddr a = .ckcpl ↔ a = 0x09 := by
  refine ⟨fun h => ?_, fun h => h ▸ rfl⟩
  rw [← Reg.addr_ofAddr a, h]
  rfl

end Sys2Proof

namespace Sys2Proof.Machine

/-! ### The registers of a block at reset -/

/-- Of all the registers at reset only the complement of the (zero) sum is not 0x00 (R223). -/
theorem readReg_reset (r : Reg) : readReg State.reset r = if r = .ckcpl then 0xFF else 0x00 := by
  cases r with
  | cmd | status | errcode | keylen | dinlen | sumLo | sumHi | ckxor | ckchk | ckcpl => decide
  | ckIn | key i | reserved a => rfl
  | din i | dout i => exact Vector.getElem_replicate i.isLt

/-- The value of each address at reset (R223). -/
theorem readValue_reset (a : Addr) :
    readValue State.reset a = if a = 0x09 then 0xFF else 0x00 := by
  simp only [readValue, readReg_reset, Reg.ofAddr_eq_ckcpl_iff]

/-- A read sees only the block, and reset leaves nothing of it: the state before does not matter. -/
theorem readValue_resetState (s : State) (a : Addr) :
    readValue (resetState s) a = readValue State.reset a := by
  unfold readValue
  cases Reg.ofAddr a <;> rfl

/-- The level of the reset input is not seen by a read (40_bus_access.md R91). -/
@[simp] theorem readValue_setResetPin (b : Bool) (s : State) (a : Addr) :
    readValue (setResetPin b s) a = readValue s a := by
  unfold readValue
  cases Reg.ofAddr a <;> rfl

/-! ### The reset input -/

/-- The assertion of the reset input (R220). -/
theorem takeTurn_resetAssert (s : State) :
    takeTurn .resetAssert s = .next (setResetPin true (resetState s)) := rfl

/-- While the reset input is asserted the host's turn moves at most its own program (R220). -/
theorem hostTurn_in_reset {s t : State} (hpin : s.resetPin = true) (h : hostTurn s = .next t) :
    t = setProgram t.program s := by
  obtain ⟨-, rfl⟩ | ⟨_, _, -, -, rfl⟩ | ⟨_, _, -, hout, -⟩ | ⟨_, -, -, rfl⟩ | ⟨_, -, hout, -⟩ :=
    hostTurn_cases s t h
  case inr.inr.inl | inr.inr.inr.inr => exact absurd (hpin.symm.trans hout) (by decide)
  all_goals rfl

end Sys2Proof.Machine
end

section
/-! SUPPORT. The statements on reset (70_reset_and_hazards.md R220, R223). -/

namespace Sys2Proof.Machine

/-- Settles O22: all three states read as the block at reset does. -/
theorem readsRightAfterReset : Obligations.ReadsRightAfterReset := by
  intro s t a ht
  have hread : readValue t a = readValue State.reset a := by
    obtain hsrst | hassert | rfl := ht
    · cases (exec_srst s).symm.trans hsrst
      exact readValue_resetState s a
    · cases (takeTurn_resetAssert s).symm.trans hassert
      rw [readValue_setResetPin, readValue_resetState]
    · rfl
  rw [exec_rd, hread, readValue_reset]

/-- Settles O20: both resets answer `resetState s`, whose items are those of the block at reset; then the
host's turn in reset. -/
theorem bothResetsGiveTheResetState : Obligations.BothResetsGiveTheResetState := by
  refine fun s => ⟨⟨resetState s, exec_srst s, takeTurn_resetAssert s, ?key, rfl, ?din, rfl, ?dout, rfl,
    rfl, rfl, rfl, rfl, rfl⟩, fun hpin _ h => hostTurn_in_reset hpin h⟩
  case key | din | dout => exact fun i => Vector.getElem_replicate i.isLt

end Sys2Proof.Machine
end

section
/-! SUPPORT. Decoding undoes encoding (30_encoding.md sections 2 to 5). -/

namespace Sys2Proof

/-- The two ends of an `INVALID` word (R72). -/
theorem decode_encode_invalid (top : BitVec 1) (low : BitVec 14) :
    decode (encode (.invalid top low)) = .invalid top low := by
  rw [decode_of_bit14]
  · congr 1 <;>
    · apply BitVec.eq_of_getLsbD_eq
      intro i hi
      simp only [encode, BitVec.getLsbD_extractLsb', BitVec.getLsbD_append]
      interval_cases i <;> simp
  · simp only [encode, BitVec.getLsbD_append]
    simp

/-- Every other well-formed transaction but a read is what some write decodes to (R77, R78). -/
theorem exists_decodeWrite (i : Instr) (hwf : i.wellFormed = true) (hinv : i.mnemonic ≠ .INVALID)
    (hrd : i.mnemonic ≠ .RD) : ∃ a d, decodeWrite a d = i := by
  cases i with
  | invalid => exact absurd rfl hinv
  | rd => exact absurd rfl hrd
  | wr a d => exact ⟨a, d, decodeWrite_ignored a d hwf⟩
  | wrKey i d => exact ⟨_, d, decodeWrite_key i d⟩
  | wrDin i d => exact ⟨_, d, decodeWrite_din i d⟩
  | wrKeylen d => exact ⟨0x03, d, rfl⟩
  | wrDinlen d => exact ⟨0x04, d, rfl⟩
  | ckin d => exact ⟨0x0A, d, rfl⟩
  | cmdRsvd c =>
    refine ⟨0x00, c, Machine.decodeCommand_reserved c fun hc => ?_⟩
    simp only [Instr.wellFormed, definedCode] at hwf
    simp_all
  | nop => exact ⟨0x00, 0x00, rfl⟩
  | enc => exact ⟨0x00, 0x01, rfl⟩
  | dec => exact ⟨0x00, 0x02, rfl⟩
  | ckclr => exact ⟨0x00, 0x40, rfl⟩
  | clrerr => exact ⟨0x00, 0xC0, rfl⟩
  | srst => exact ⟨0x00, 0xC1, rfl⟩

/-- Settles O1: `INVALID` words, reads, and writes, whose word is that of the address and data they
decode from. -/
theorem decodeEncodeRoundTrip : Obligations.DecodeEncodeRoundTrip := by
  intro i hwf
  by_cases hinv : i.mnemonic = .INVALID
  · cases i <;> cases hinv
    exact decode_encode_invalid _ _
  by_cases hrd : i.mnemonic = .RD
  · cases i <;> cases hrd
    exact decode_busWord_read _ 0x00
  obtain ⟨a, d, rfl⟩ := exists_decodeWrite i hwf hinv hrd
  rw [encode_decodeWrite, decode_writeWord]

/-- Settles O5: each word is the encoding of its transaction. -/
theorem wordsOfTheManualDecode : Obligations.WordsOfTheManualDecode :=
  have hword := decodeEncodeRoundTrip
  ⟨hword (.rd 0x09) rfl, hword (.wr 0x18 0x55) rfl, hword (.wrKey 15 0x10) rfl,
    hword (.wrDin 7 0xEF) rfl, hword (.wrKeylen 0x10) rfl, hword (.wrDinlen 0x08) rfl,
    hword (.ckin 0x5A) rfl, hword (.cmdRsvd 0xFF) rfl, hword .nop rfl, hword .enc rfl, hword .dec rfl,
    hword .ckclr rfl, hword .clrerr rfl, hword .srst rfl, hword (.invalid 0#1 0x3FFF#14) rfl⟩

end Sys2Proof
end

section
/-! SUPPORT. The turns of the agents, case by case (40_bus_access.md R100; 70_reset_and_hazards.md R220,
R222): the host's by its next operation and the reset input, and the step's by the schedule. -/

namespace Sys2Proof.Machine

section
variable {s : State} {w : Word} {rest : List HostOp}

/-- A host with nothing to issue waits (R222). -/
theorem hostTurn_nil (hp : s.program = []) : hostTurn s = .next s := by
  rw [hostTurn, hp]

/-- The host's next transaction (R100). -/
theorem hostTurn_txn (hp : s.program = .txn w :: rest) (hpin : s.resetPin = false) :
    hostTurn s = exec (decode w) (setProgram rest s) := by
  rw [hostTurn, hp]
  exact if_neg (by simp [hpin])

/-- A transaction in reset is lost (log entry 3). -/
theorem hostTurn_txn_in_reset (hp : s.program = .txn w :: rest) (hpin : s.resetPin = true) :
    hostTurn s = .next (setProgram rest s) := by
  rw [hostTurn, hp]
  exact if_pos hpin

/-- A turn of the host's `POLL` loop (30_encoding.md R80). -/
theorem hostTurn_poll (hp : s.program = .poll :: rest) (hpin : s.resetPin = false) :
    hostTurn s = .next (pollTurn rest s) := by
  rw [hostTurn, hp]
  exact if_neg (by simp [hpin])

/-- A `POLL` loop in reset goes on (log entry 3). -/
theorem hostTurn_poll_in_reset (hp : s.program = .poll :: rest) (hpin : s.resetPin = true) :
    hostTurn s = .next s := by
  rw [hostTurn, hp]
  exact if_pos hpin

/-- With no turn listed a step is the default turn (log entry 1). -/
theorem step_default_turn (hvalid : ValidProgram s) (hl : s.schedule = []) :
    step s = takeTurn (defaultTurn s) s := by
  rw [step_eq_nextTurn s hvalid, nextTurn, hl]

/-- A program with an `INVALID` word is refused, its first one named (R101). -/
theorem step_invalid {n : Nat} (h : invalidFrom 0 s.program = some (n, w)) :
    step s = .refused (.invalidWord n w) := by
  rw [step, h]

/-- The default turn while an operation is pending is the engine's. -/
theorem defaultTurn_busy (hb : busy s = true) : defaultTurn s = .engine := if_pos hb

/-- The default turn with nothing pending is the host's. -/
theorem defaultTurn_idle (hb : busy s = false) : defaultTurn s = .host := if_neg (by simp [hb])

end

/-- A completion leaves the outside world as it is (41_cipher.md R117). -/
theorem complete_keeps_outside (s : State) : (complete s).program = s.program ∧
    (complete s).schedule = s.schedule ∧ (complete s).resetPin = s.resetPin ∧
    (complete s).reads = s.reads := by
  obtain hp | ⟨p, hp⟩ := Option.eq_none_or_eq_some s.pend
  · rw [complete_none s hp]; exact ⟨rfl, rfl, rfl, rfl⟩
  · rw [complete_some s p hp]; exact ⟨rfl, rfl, rfl, rfl⟩

/-- A completion, enabled or not, leaves nothing pending (R117). -/
@[simp] theorem complete_pend (s : State) : (complete s).pend = none := by
  obtain hp | ⟨p, hp⟩ := Option.eq_none_or_eq_some s.pend
  · rw [complete_none s hp, hp]
  · rw [complete_some s p hp]

/-- A cipher command leaves the outside world as it is. -/
theorem startCipher_keeps_outside (d : Dir) (s : State) : (startCipher d s).program = s.program ∧
    (startCipher d s).schedule = s.schedule ∧ (startCipher d s).resetPin = s.resetPin ∧
    (startCipher d s).reads = s.reads := by
  obtain ⟨-, h⟩ | ⟨-, -, h⟩ | ⟨-, -, -, h⟩ | ⟨-, -, -, h⟩ := startCipher_cases d s <;>
    rw [h] <;> exact ⟨rfl, rfl, rfl, rfl⟩

/-- A transaction moves neither the host's program, nor the turns, nor the reset input (R100, R220). -/
theorem exec_keeps_outside (i : Instr) (s t : State) (h : exec i s = .next t) :
    t.program = s.program ∧ t.schedule = s.schedule ∧ t.resetPin = s.resetPin := by
  cases i with
  | invalid => cases h
  | enc | dec =>
    cases h
    obtain ⟨hprog, hsched, hpin, -⟩ := startCipher_keeps_outside _ s
    exact ⟨hprog, hsched, hpin⟩
  | rd | wr | wrKey | wrDin | wrKeylen | wrDinlen | ckin | cmdRsvd | nop | ckclr | clrerr | srst =>
    cases h
    exact ⟨rfl, rfl, rfl⟩

/-- Only a word with bit 14 set decodes to `INVALID` (30_encoding.md R72). -/
theorem mnemonic_decode_ne_invalid {w : Word} (h14 : w.getLsbD 14 = false) :
    (decode w).mnemonic ≠ .INVALID := by
  cases h15 : w.getLsbD 15
  · rw [decode_of_read h14 h15]; nofun
  · rw [decode_of_write h14 h15]; exact (decodeWrite_wellFormed _ _).1

end Sys2Proof.Machine
end

section
/-! SUPPORT. States that differ at most in `KEY[8..15]` (41_cipher.md R123; 10_state.md R37): what they
share, and that every turn keeps them so. -/

namespace Sys2Proof.Machine

/-- A state with another key in its `KEY` file. -/
def withKey (key : Vector Byte 16) (s : State) : State := { s with key := key }

/-- No read sees `KEY` (10_state.md R37). -/
@[simp] theorem readValue_withKey (key : Vector Byte 16) (s : State) (a : Addr) :
    readValue (withKey key s) a = readValue s a := by
  unfold readValue
  cases Reg.ofAddr a <;> rfl

/-- Two such states differ in the key alone. -/
theorem SameButHighKey.exists_withKey {s t : State} (h : SameButHighKey s t) :
    ∃ key : Vector Byte 16, t = withKey key s ∧ ∀ i : Fin 8, s.key[i.val] = key[i.val] :=
  ⟨t.key, h.rest, h.head⟩

/-- Two outcomes that are next states which differ at most in `KEY[8..15]`, or the same refusal. -/
def SameOutcome : Host.Outcome State Fault Refusal → Host.Outcome State Fault Refusal → Prop
  | .next s, .next t => SameButHighKey s t
  | .refused q, .refused r => q = r
  | _, _ => False

section
variable {s : State} {key : Vector Byte 16} (hkey : ∀ i : Fin 8, s.key[i.val] = key[i.val])
include hkey

/-- The key bytes that enter the cipher are among the shared ones (R111). -/
theorem k64_withKey : k64 (withKey key s) = k64 s :=
  congrArg be8 (congrArg Vector.ofFn (funext fun i => (hkey i).symm))

/-- A cipher command latches the shared bytes only, and its checks do not see the key (R113, R115). -/
theorem sameButHighKey_startCipher (d : Dir) :
    SameButHighKey (startCipher d s) (startCipher d (withKey key s)) := by
  obtain ⟨hb, h⟩ | ⟨hb, hk, h⟩ | ⟨hb, hk, hd, h⟩ | ⟨hb, hk, hd, h⟩ := startCipher_cases d s <;> rw [h]
  · rw [startCipher_busy d (withKey key s) hb]; exact ⟨rfl, hkey⟩
  · rw [startCipher_badKey d (withKey key s) hb hk]; exact ⟨rfl, hkey⟩
  · rw [startCipher_badBlock d (withKey key s) hb hk hd]; exact ⟨rfl, hkey⟩
  · rw [startCipher_accepts d (withKey key s) hb hk hd, accept, accept, k64_clearDone, k64_clearDone,
      k64_withKey hkey]
    exact ⟨rfl, hkey⟩

/-- A byte written to `KEY` is written to both. -/
theorem sameButHighKey_setKey (i : Fin 16) (d : Byte) :
    SameButHighKey (setKey i d s) (setKey i d (withKey key s)) := by
  refine ⟨rfl, fun j => ?_⟩
  simp only [setKey_key, Vector.getElem_set, withKey, hkey j]

/-- A completion writes the latched operation's result, which is shared (R117). -/
theorem sameButHighKey_complete : SameButHighKey (complete s) (complete (withKey key s)) := by
  obtain hp | ⟨p, hp⟩ := Option.eq_none_or_eq_some s.pend
  · rw [complete_none s hp, complete_none (withKey key s) hp]; exact ⟨rfl, hkey⟩
  · rw [complete_some s p hp, complete_some (withKey key s) p hp]; exact ⟨rfl, hkey⟩

/-- A transaction keeps the two states so, or is refused in both. -/
theorem sameOutcome_exec (i : Instr) : SameOutcome (exec i s) (exec i (withKey key s)) := by
  cases i with
  | invalid => exact rfl
  | rd a =>
    rw [exec_rd, exec_rd, readValue_withKey]
    exact ⟨rfl, hkey⟩
  | wrKey i d => exact sameButHighKey_setKey hkey i d
  | enc | dec => exact sameButHighKey_startCipher hkey _
  | srst => exact ⟨rfl, fun _ => rfl⟩
  | wr | wrDin | wrKeylen | wrDinlen | ckin | cmdRsvd | nop | ckclr | clrerr => exact ⟨rfl, hkey⟩

/-- A `POLL` turn reads `STATUS`, which does not see the key (R91). -/
theorem sameButHighKey_pollTurn (rest : List HostOp) :
    SameButHighKey (pollTurn rest s) (pollTurn rest (withKey key s)) := by
  rw [pollTurn_eq, pollTurn_eq, show busy (withKey key s) = busy s from rfl]
  cases busy s <;> exact ⟨rfl, hkey⟩

theorem sameOutcome_hostTurn : SameOutcome (hostTurn s) (hostTurn (withKey key s)) := by
  match hp : s.program, hpin : s.resetPin with
  | [], _ =>
    rw [hostTurn_nil hp, hostTurn_nil (s := withKey key s) hp]
    exact ⟨rfl, hkey⟩
  | .txn w :: rest, true =>
    rw [hostTurn_txn_in_reset hp hpin, hostTurn_txn_in_reset (s := withKey key s) hp hpin]
    exact ⟨rfl, hkey⟩
  | .txn w :: rest, false =>
    rw [hostTurn_txn hp hpin, hostTurn_txn (s := withKey key s) hp hpin]
    exact sameOutcome_exec (s := setProgram rest s) hkey (decode w)
  | .poll :: rest, true =>
    rw [hostTurn_poll_in_reset hp hpin, hostTurn_poll_in_reset (s := withKey key s) hp hpin]
    exact ⟨rfl, hkey⟩
  | .poll :: rest, false =>
    rw [hostTurn_poll hp hpin, hostTurn_poll (s := withKey key s) hp hpin]
    exact sameButHighKey_pollTurn hkey rest

theorem sameOutcome_takeTurn (turn : Turn) :
    SameOutcome (takeTurn turn s) (takeTurn turn (withKey key s)) := by
  cases turn with
  | host => exact sameOutcome_hostTurn hkey
  | engine => exact sameButHighKey_complete hkey
  | resetAssert => exact ⟨rfl, fun _ => rfl⟩
  | resetRelease => exact ⟨rfl, hkey⟩

/-- Neither the program's validity nor the turn to take depends on the key. -/
theorem sameOutcome_step : SameOutcome (step s) (step (withKey key s)) := by
  match hv : invalidFrom 0 s.program, hl : s.schedule with
  | some (n, w), _ =>
    rw [step_invalid hv, step_invalid (s := withKey key s) hv]
    exact rfl
  | none, [] =>
    rw [step_default_turn hv hl, step_default_turn (s := withKey key s) hv hl]
    exact sameOutcome_takeTurn hkey (defaultTurn s)
  | none, turn :: l =>
    rw [step_listed_turn hv hl, step_listed_turn (s := withKey key s) hv hl]
    exact sameOutcome_takeTurn (s := setSchedule l s) hkey turn

end

/-- The second outcome where the first one is a next state. -/
theorem SameOutcome.exists_next {s : State} {o : Host.Outcome State Fault Refusal}
    (h : SameOutcome (.next s) o) : ∃ t, o = .next t ∧ SameButHighKey s t := by
  cases o with
  | next t => exact ⟨t, rfl, h⟩
  | fault | refused => cases h

/-- The second outcome where the first one is a refusal. -/
theorem SameOutcome.eq_refused {r : Refusal} {o : Host.Outcome State Fault Refusal}
    (h : SameOutcome (.refused r) o) : o = .refused r := by
  cases o with
  | refused q => exact congrArg _ (show r = q from h).symm
  | next | fault => cases h

/-- Settles O42: the two steps have the same outcome but for `KEY[8..15]`, and the returned bytes are
among what is the same. -/
theorem highKeyBytesAreNeverObserved : Obligations.HighKeyBytesAreNeverObserved := by
  intro s t h
  obtain ⟨key, rfl, hkey⟩ := h.exists_withKey
  have hstep := sameOutcome_step hkey
  refine ⟨fun s' hs => ?next, fun r hs => ?refused⟩
  case next =>
    obtain ⟨t', ht, hsame⟩ := (hs ▸ hstep).exists_next
    exact ⟨t', ht, hsame, by rw [hsame.rest]⟩
  case refused => exact (hs ▸ hstep).eq_refused

/-- Settles O8: the byte is the one that the address has under either key. -/
theorem noReadDependsOnTheKey : Obligations.NoReadDependsOnTheKey := fun s key a =>
  ⟨readValue s a, exec_rd s a, (exec_rd (withKey key s) a).trans (by rw [readValue_withKey]; rfl)⟩

end Sys2Proof.Machine
end

section
/-! SUPPORT. The invariant of the error record, `DONE` and reset (60_exceptions.md R191, R199;
41_cipher.md R114, R117; 70_reset_and_hazards.md R220), kept by each operation and each turn. -/

namespace Sys2Proof.Machine

/-- Every cause has one of the four codes (R191). -/
theorem errorCode_legal (e : ErrorCause) : (errorCode e).toNat ≤ 4 ∧ errorCode e ≠ 0x00 := by
  cases e <;> decide

/-- A block at its reset values has the invariant, whatever the outside world holds. -/
theorem legal_resetState (s : State) : Legal (resetState s) :=
  ⟨by simp [State.reset], by simp [State.reset], by simp [State.reset],
    fun _ => resetState_resetState s⟩

/-- The invariant does not see the turns that are left. -/
theorem Legal.setSchedule {s : State} (h : Legal s) (l : List Turn) : Legal (setSchedule l s) :=
  ⟨h.code_legal, h.err_iff_code, h.busy_not_done,
    fun hpin => congrArg (Machine.setSchedule l) (h.held_in_reset hpin)⟩

/-- The invariant does not see the host's program. -/
theorem Legal.setProgram {s : State} (h : Legal s) (p : List HostOp) : Legal (setProgram p s) :=
  ⟨h.code_legal, h.err_iff_code, h.busy_not_done,
    fun hpin => congrArg (Machine.setProgram p) (h.held_in_reset hpin)⟩

/-- Outside reset the last clause says nothing. -/
theorem legal_of_not_in_reset {s : State} (hpin : s.resetPin = false) (hcode : s.errcode.toNat ≤ 4)
    (herr : s.err = true ↔ s.errcode ≠ 0x00) (hdone : s.pend ≠ none → s.done = false) : Legal s :=
  ⟨hcode, herr, hdone, fun h => absurd (hpin.symm.trans h) (by decide)⟩

section
variable {s : State} (h : Legal s) (hpin : s.resetPin = false)
include h hpin

/-- An error is recorded with its code (R199, R200). -/
theorem Legal.raiseError (e : ErrorCause) : Legal (raiseError e s) := by
  obtain ⟨hcode, hne⟩ := errorCode_legal e
  exact legal_of_not_in_reset hpin hcode (by simpa using hne) h.busy_not_done

theorem Legal.clearDone : Legal (clearDone s) :=
  legal_of_not_in_reset hpin h.code_legal h.err_iff_code fun _ => rfl

/-- A cipher command clears `DONE` before it accepts (41_cipher.md R114). -/
theorem Legal.startCipher (d : Dir) : Legal (startCipher d s) := by
  obtain ⟨-, hs⟩ | ⟨-, -, hs⟩ | ⟨-, -, -, hs⟩ | ⟨-, -, -, hs⟩ := startCipher_cases d s <;> rw [hs]
  · exact h.raiseError hpin .busy
  · exact (h.clearDone hpin).raiseError hpin .invalidKey
  · exact (h.clearDone hpin).raiseError hpin .invalidBlock
  · exact legal_of_not_in_reset hpin h.code_legal h.err_iff_code fun _ => rfl

/-- Every transaction outside reset keeps the invariant. -/
theorem Legal.exec {t : State} (i : Instr) (hi : exec i s = .next t) : Legal t := by
  cases i with
  | invalid => cases hi
  | cmdRsvd => cases hi; exact h.raiseError hpin .illegalCommand
  | enc | dec => cases hi; exact h.startCipher hpin _
  | srst => cases hi; exact legal_resetState s
  | clrerr =>
    cases hi
    exact legal_of_not_in_reset hpin (by simp) (by simp) h.busy_not_done
  | rd | wr | wrKey | wrDin | wrKeylen | wrDinlen | ckin | nop | ckclr =>
    cases hi
    exact legal_of_not_in_reset hpin h.code_legal h.err_iff_code h.busy_not_done

theorem Legal.pollTurn (rest : List HostOp) : Legal (pollTurn rest s) := by
  rw [pollTurn_eq]
  split <;> exact legal_of_not_in_reset hpin h.code_legal h.err_iff_code h.busy_not_done

end

section
variable {s : State} (h : Legal s)
include h

theorem Legal.hostTurn {t : State} (ht : hostTurn s = .next t) : Legal t := by
  obtain ⟨-, rfl⟩ | ⟨w, rest, -, -, rfl⟩ | ⟨w, rest, -, hpin, hexec⟩ | ⟨rest, -, -, rfl⟩ |
    ⟨rest, -, hpin, rfl⟩ := hostTurn_cases s t ht
  · exact h
  · exact h.setProgram rest
  · exact (h.setProgram rest).exec hpin (decode w) hexec
  · exact h
  · exact h.pollTurn hpin rest

/-- In reset nothing is pending, so a completion finds nothing to do there (R220, R221). -/
theorem Legal.complete : Legal (complete s) := by
  obtain hp | ⟨p, hp⟩ := Option.eq_none_or_eq_some s.pend
  · rw [complete_none s hp]; exact h
  · have hpin : s.resetPin = false := by
      by_contra hin
      have hreset := congrArg State.pend (h.held_in_reset (by simpa using hin))
      rw [hp] at hreset
      cases hreset
    rw [complete_some s p hp]
    exact legal_of_not_in_reset hpin h.code_legal h.err_iff_code (absurd rfl)

theorem Legal.takeTurn {t : State} (turn : Turn) (ht : takeTurn turn s = .next t) : Legal t := by
  cases turn with
  | host => exact h.hostTurn ht
  | engine => cases ht; exact h.complete
  | resetAssert =>
    cases ht
    obtain ⟨hcode, herr, hdone, -⟩ := legal_resetState s
    exact ⟨hcode, herr, hdone, fun _ => rfl⟩
  | resetRelease =>
    cases ht
    exact legal_of_not_in_reset rfl h.code_legal h.err_iff_code h.busy_not_done

end

/-- Settles O54: whichever turn the step is, it keeps the invariant. -/
theorem stepKeepsLegal : Obligations.StepKeepsLegal := by
  intro s t h hstep
  obtain ⟨-, ⟨turn, l, -, hturn⟩ | ⟨-, hturn⟩⟩ := step_cases s t hstep
  · exact (h.setSchedule l).takeTurn turn hturn
  · exact h.takeTurn (defaultTurn s) hturn

/-- Settles O55: the reset state is what `ResetState()` makes of itself, and `SRST` answers a block at
its reset values. -/
theorem resetIsLegal : Obligations.ResetIsLegal := by
  refine ⟨legal_resetState State.reset, fun s t hexec => ?_⟩
  cases hexec
  exact legal_resetState s

end Sys2Proof.Machine
end

section
/-! SUPPORT. A refused program, idempotent writes, and the absorbed stream (40_bus_access.md R101;
20_memory.md R56; 10_state.md R30). -/

namespace Sys2Proof.Machine

/-- The first `INVALID` word of a program, and its position (R101). -/
theorem invalidFrom_append (n : Nat) (pre post : List HostOp) (w : Word)
    (hpre : ∀ v : Word, HostOp.txn v ∈ pre → v.getLsbD 14 = false) (hw : w.getLsbD 14 = true) :
    invalidFrom n (pre ++ .txn w :: post) = some (n + pre.length, w) := by
  induction pre generalizing n with
  | nil => simp [invalidFrom, hw]
  | cons op pre ih =>
    have hrest := ih (n + 1) fun v hv => hpre v (List.mem_cons_of_mem op hv)
    rw [Nat.add_right_comm, Nat.add_assoc] at hrest
    cases op with
    | txn v =>
      have hv := hpre v List.mem_cons_self
      rw [List.cons_append, invalidFrom, hv, if_neg Bool.false_ne_true]
      exact hrest
    | poll => exact hrest

/-- Settles O12: the first `INVALID` word is found at its position, whatever stands before it. -/
theorem invalidWordRefusesTheProgram : Obligations.InvalidWordRefusesTheProgram := by
  refine ⟨fun s pre post w hprog hpre hw => step_invalid ?_, fun _ _ _ => rfl⟩
  rw [hprog, invalidFrom_append 0 pre post w hpre hw, Nat.zero_add]

/-- A byte absorbed twice is summed twice, and cancels in the XOR (43_checksum.md R151). -/
theorem absorb_absorb (b : Byte) (s : State) : absorb b (absorb b s) =
    { s with sum16 := BitVec.ofNat 16 (s.sum16.toNat + 2 * b.toNat) } := by
  have hsum : s.sum16 + b.setWidth 16 + b.setWidth 16 =
      BitVec.ofNat 16 (s.sum16.toNat + 2 * b.toNat) := by
    apply BitVec.eq_of_toNat_eq
    simp only [BitVec.toNat_add, BitVec.toNat_setWidth, BitVec.toNat_ofNat]
    omega
  have hxor : s.xor8 ^^^ b ^^^ b = s.xor8 := by
    rw [BitVec.xor_assoc, BitVec.xor_self, BitVec.xor_zero]
  simp only [absorb, hsum, hxor]

/-- The rows that 20_memory.md section 3 calls idempotent write values that do not depend on what they
replace. -/
theorem exec_idempotent (i : Instr) (s t : State) (hi : i.mnemonic ∈ [.NOP, .CKCLR, .CLRERR, .SRST,
    .WR_KEYLEN, .WR_DINLEN, .WR_DIN, .WR_KEY, .WR]) (h : exec i s = .next t) :
    exec i t = .next t := by
  cases i with
  | wrKey i d =>
    cases h
    rw [exec_wrKey, setKey_key, Vector.set_set]
    rfl
  | wrDin i d =>
    cases h
    rw [exec_wrDin, setDin_din, Vector.set_set]
    rfl
  | nop | ckclr | clrerr | srst | wrKeylen | wrDinlen | wr => cases h; rfl
  | invalid | rd | ckin | cmdRsvd | enc | dec => exact absurd hi (by simp [Instr.mnemonic])

/-- Settles O13: the idempotent rows, and `CKIN`, which is none. -/
theorem idempotentWrites : Obligations.IdempotentWrites :=
  ⟨exec_idempotent, fun b s => ⟨absorb b s, _, exec_ckin b s, exec_ckin b _, absorb_absorb b s⟩⟩

/-- Settles O25, by the induction on the stream in `execAll_ckin`. -/
theorem absorbedStreamIsSummed : Obligations.AbsorbedStreamIsSummed := execAll_ckclr_ckin

end Sys2Proof.Machine
end

section
/-! SUPPORT. The error record, `DOUT` and `DONE` after a transaction or a turn (60_exceptions.md section 3;
10_state.md R36; 70_reset_and_hazards.md R226). -/

namespace Sys2Proof.Machine

/-- A cipher command keeps the error record or raises an error (41_cipher.md R113, R114). -/
theorem startCipher_error_cases (d : Dir) (s : State) :
    ((startCipher d s).err = s.err ∧ (startCipher d s).errcode = s.errcode) ∨
    ((startCipher d s).err = true ∧ (startCipher d s).errcode ≠ 0x00) := by
  obtain ⟨-, h⟩ | ⟨-, -, h⟩ | ⟨-, -, -, h⟩ | ⟨-, -, -, h⟩ := startCipher_cases d s <;> rw [h]
  case inr.inr.inr => exact .inl ⟨rfl, rfl⟩
  all_goals exact .inr ⟨rfl, by simp [errorCode]⟩

/-- Everything a transaction can do to the error record: keep it, raise an error, or clear it. -/
theorem exec_error_cases (i : Instr) (s t : State) (h : exec i s = .next t) :
    (t.err = s.err ∧ t.errcode = s.errcode) ∨
    (t.err = true ∧ t.errcode ≠ 0x00 ∧ i.mnemonic ∈ [.ENC, .DEC, .CMD_RSVD]) ∨
    (t.err = false ∧ t.errcode = 0x00 ∧ (i = .clrerr ∨ i = .srst)) := by
  cases i with
  | invalid => cases h
  | enc | dec =>
    cases h
    obtain hkept | ⟨herr, hcode⟩ := startCipher_error_cases _ s
    · exact .inl hkept
    · exact .inr (.inl ⟨herr, hcode, by simp [Instr.mnemonic]⟩)
  | cmdRsvd =>
    cases h
    exact .inr (.inl ⟨rfl, by simp [errorCode], by simp [Instr.mnemonic]⟩)
  | clrerr | srst =>
    cases h
    exact .inr (.inr ⟨rfl, rfl, by simp⟩)
  | rd | wr | wrKey | wrDin | wrKeylen | wrDinlen | ckin | nop | ckclr =>
    cases h
    exact .inl ⟨rfl, rfl⟩

theorem complete_keeps_error (s : State) :
    (complete s).err = s.err ∧ (complete s).errcode = s.errcode := by
  obtain hp | ⟨p, hp⟩ := Option.eq_none_or_eq_some s.pend
  · rw [complete_none s hp]; exact ⟨rfl, rfl⟩
  · rw [complete_some s p hp]; exact ⟨rfl, rfl⟩

/-- Settles O18: what each transaction can do to the record, then the completion. -/
theorem errorsAreSticky : Obligations.ErrorsAreSticky := by
  refine ⟨fun i s t h herr hclr hsrst => ?sticky, fun i s t h hne => ?code, complete_keeps_error⟩
  case sticky =>
    obtain ⟨hkept, -⟩ | ⟨hraised, -⟩ | ⟨-, -, hi⟩ := exec_error_cases i s t h
    · exact hkept.trans herr
    · exact hraised
    · exact absurd hi (not_or.mpr ⟨hclr, hsrst⟩)
  case code =>
    obtain ⟨-, hkept⟩ | hraised | ⟨herr, hcode, hi⟩ := exec_error_cases i s t h
    · exact absurd hkept hne
    · exact .inl hraised
    · obtain rfl | rfl := hi <;> exact .inr ⟨herr, hcode, by simp [Instr.mnemonic]⟩

/-- A cipher command does not write `DOUT` (10_state.md R36). -/
@[simp] theorem startCipher_dout (d : Dir) (s : State) : (startCipher d s).dout = s.dout := by
  obtain ⟨-, h⟩ | ⟨-, -, h⟩ | ⟨-, -, -, h⟩ | ⟨-, -, -, h⟩ := startCipher_cases d s <;> rw [h] <;> rfl

/-- A transaction that writes `DOUT` is `SRST`, which resets the block (R36). -/
theorem exec_dout_cases (i : Instr) (s t : State) (h : exec i s = .next t) :
    t.dout = s.dout ∨ t = resetState s := by
  cases i with
  | invalid => cases h
  | srst => cases h; exact .inr rfl
  | enc | dec => cases h; exact .inl (startCipher_dout _ s)
  | rd | wr | wrKey | wrDin | wrKeylen | wrDinlen | ckin | cmdRsvd | nop | ckclr | clrerr =>
    cases h
    exact .inl rfl

/-- The host's turn writes `DOUT` only by such a transaction. -/
theorem hostTurn_dout_cases (s t : State) (h : hostTurn s = .next t) :
    t.dout = s.dout ∨ ∃ u, t = resetState u := by
  obtain ⟨-, rfl⟩ | ⟨w, rest, -, -, rfl⟩ | ⟨w, rest, -, -, hexec⟩ | ⟨rest, -, -, rfl⟩ |
    ⟨rest, -, -, rfl⟩ := hostTurn_cases s t h
  · exact .inl rfl
  · exact .inl rfl
  · exact (exec_dout_cases _ _ t hexec).imp_right fun ht => ⟨_, ht⟩
  · exact .inl rfl
  · rw [pollTurn_eq]
    split <;> exact .inl rfl

/-- A turn writes `DOUT` only by completing the pending operation or by a reset (R36). -/
theorem takeTurn_dout_cases (turn : Turn) (s t : State) (h : takeTurn turn s = .next t)
    (hne : t.dout ≠ s.dout) :
    (∃ p, s.pend = some p ∧ t.dout = bytes8 p.result ∧ t.done = true ∧ t.pend = none) ∨
    (t.dout = Vector.replicate 8 0x00 ∧ t.key = Vector.replicate 16 0x00 ∧ t.pend = none) := by
  cases turn with
  | host =>
    obtain hkept | ⟨u, rfl⟩ := hostTurn_dout_cases s t h
    · exact absurd hkept hne
    · exact .inr ⟨rfl, rfl, rfl⟩
  | engine =>
    cases h
    obtain hp | ⟨p, hp⟩ := Option.eq_none_or_eq_some s.pend
    · exact absurd (congrArg State.dout (complete_none s hp)) hne
    · rw [complete_some s p hp]
      exact .inl ⟨p, hp, rfl, rfl, rfl⟩
  | resetAssert => cases h; exact .inr ⟨rfl, rfl, rfl⟩
  | resetRelease => cases h; exact absurd rfl hne

/-- Settles O37: whichever turn the step is. -/
theorem doutChangesOnlyByCompletionOrReset : Obligations.DoutChangesOnlyByCompletionOrReset := by
  intro s t hstep hne
  obtain ⟨-, ⟨turn, l, -, hturn⟩ | ⟨-, hturn⟩⟩ := step_cases s t hstep
  · exact takeTurn_dout_cases turn (setSchedule l s) t hturn hne
  · exact takeTurn_dout_cases (defaultTurn s) s t hturn hne

/-- With nothing pending, a cipher command that is not acceptable is rejected for its key or its block,
with `DONE` cleared (41_cipher.md R113, R114). -/
theorem startCipher_not_ready (d : Dir) {s : State} (hidle : s.pend = none) (h : ¬ Ready s) :
    ∃ e ∈ [ErrorCause.invalidKey, .invalidBlock], startCipher d s = raiseError e (clearDone s) := by
  obtain ⟨hb, -⟩ | ⟨-, -, hs⟩ | ⟨-, -, -, hs⟩ | ⟨-, hk, hd, -⟩ := startCipher_cases d s
  · exact absurd hidle ((busy_eq_true_iff s).mp hb)
  · exact ⟨_, by simp, hs⟩
  · exact ⟨_, by simp, hs⟩
  · obtain ⟨hmin, hmax⟩ := (keyok_iff s).mp hk
    exact absurd ⟨hidle, hmin, hmax, BitVec.eq_of_toNat_eq ((blkok_iff s).mp hd)⟩ h

/-- Settles O39: an acceptable command is accepted and completed; any other leaves nothing to
complete. -/
theorem doneTellsTheOutcome : Obligations.DoneTellsTheOutcome := by
  intro s d hidle
  refine ⟨startCipher d s, exec_command d s, complete_pend _, ?_⟩
  by_cases hready : Ready s
  · rw [complete_startCipher_ready hready d]
    exact ⟨iff_of_true rfl hready, fun _ => rfl, nofun⟩
  · obtain ⟨e, he, hs⟩ := startCipher_not_ready d hidle hready
    rw [hs, complete_none (raiseError e (clearDone s)) hidle]
    refine ⟨iff_of_false (by simp) hready, by simp, fun _ => ⟨rfl, ?_⟩⟩
    simp only [List.mem_cons, List.not_mem_nil, or_false] at he
    exact he.imp (congrArg errorCode) (congrArg errorCode)

end Sys2Proof.Machine
end

section
/-! SUPPORT. Runs of valid programs (60_exceptions.md R190; 70_reset_and_hazards.md R234): no turn stops
the machine, each uses up its place in the schedule, and a goal reached within a number of steps. -/

namespace Sys2Proof.Machine

/-- A valid program has no word with bit 14 set (40_bus_access.md R101). -/
theorem validProgram_iff (s : State) :
    ValidProgram s ↔ ∀ w, HostOp.txn w ∈ s.program → w.getLsbD 14 = false :=
  invalidFrom_eq_none_iff 0 s.program

section
variable {s t : State} (hvalid : ValidProgram s)
include hvalid

/-- Validity is the program's alone. -/
theorem ValidProgram.of_program_eq (h : t.program = s.program) : ValidProgram t := by
  rw [ValidProgram, h]
  exact hvalid

/-- What is left of a valid program is valid. -/
theorem ValidProgram.setProgram_tail {op : HostOp} {rest : List HostOp}
    (hp : s.program = op :: rest) : ValidProgram (setProgram rest s) := by
  rw [validProgram_iff] at hvalid ⊢
  exact fun w hw => hvalid w (hp ▸ List.mem_cons_of_mem op hw)

/-- The next word of a valid program answers a next state, and moves neither the program after it nor
the turns. -/
theorem exec_next_of_valid {w : Word} {rest : List HostOp} (hp : s.program = .txn w :: rest) :
    ∃ t, exec (decode w) (setProgram rest s) = .next t ∧ t.program = rest ∧
      t.schedule = s.schedule := by
  have h14 := (validProgram_iff s).mp hvalid w (hp ▸ List.mem_cons_self)
  obtain ⟨t, ht⟩ := exec_next (decode w) (setProgram rest s) (mnemonic_decode_ne_invalid h14)
  obtain ⟨hprog, hsched, -⟩ := exec_keeps_outside _ _ t ht
  exact ⟨t, ht, hprog, hsched⟩

/-- The host's turn under a valid program. -/
theorem hostTurn_next : ∃ t, hostTurn s = .next t ∧ ValidProgram t ∧ t.schedule = s.schedule := by
  match hp : s.program, hpin : s.resetPin with
  | [], _ => exact ⟨s, hostTurn_nil hp, hvalid, rfl⟩
  | .txn w :: rest, true =>
    exact ⟨_, hostTurn_txn_in_reset hp hpin, hvalid.setProgram_tail hp, rfl⟩
  | .txn w :: rest, false =>
    obtain ⟨t, ht, hprog, hsched⟩ := exec_next_of_valid hvalid hp
    exact ⟨t, (hostTurn_txn hp hpin).trans ht, (hvalid.setProgram_tail hp).of_program_eq hprog, hsched⟩
  | .poll :: rest, true => exact ⟨s, hostTurn_poll_in_reset hp hpin, hvalid, rfl⟩
  | .poll :: rest, false =>
    refine ⟨_, hostTurn_poll hp hpin, ?_⟩
    rw [pollTurn_eq]
    split
    · exact ⟨hvalid.of_program_eq rfl, rfl⟩
    · exact ⟨(hvalid.setProgram_tail hp).of_program_eq rfl, rfl⟩

/-- Every turn under a valid program. -/
theorem takeTurn_next (turn : Turn) :
    ∃ t, takeTurn turn s = .next t ∧ ValidProgram t ∧ t.schedule = s.schedule := by
  cases turn with
  | host => exact hostTurn_next hvalid
  | engine =>
    obtain ⟨hprog, hsched, -⟩ := complete_keeps_outside s
    exact ⟨complete s, rfl, hvalid.of_program_eq hprog, hsched⟩
  | resetAssert | resetRelease => exact ⟨_, rfl, hvalid.of_program_eq rfl, rfl⟩

/-- A valid program's step answers a next state, again with a valid program, and uses up one turn of
the schedule. -/
theorem step_next : ∃ t, step s = .next t ∧ ValidProgram t ∧ t.schedule = s.schedule.tail := by
  match hl : s.schedule with
  | [] =>
    obtain ⟨t, ht, hvalid', hsched⟩ := takeTurn_next hvalid (defaultTurn s)
    exact ⟨t, (step_default_turn hvalid hl).trans ht, hvalid', hsched.trans hl⟩
  | turn :: l =>
    obtain ⟨t, ht, hvalid', hsched⟩ :=
      takeTurn_next (s := setSchedule l s) (hvalid.of_program_eq rfl) turn
    exact ⟨t, (step_listed_turn hvalid hl).trans ht, hvalid', hsched⟩

end

/-- A state with the property `P` is reached within `k` steps. -/
def ReachedWithin (k : Nat) (s : State) (P : State → Prop) : Prop :=
  ∃ n ≤ k, ∃ t, steps n s = .next t ∧ P t

section
variable {P : State → Prop} {k : Nat} {s t : State}

theorem reachedWithin_now (h : P s) : ReachedWithin k s P := ⟨0, Nat.zero_le k, s, rfl, h⟩

theorem ReachedWithin.after_step (hstep : step s = .next t) (h : ReachedWithin k t P) :
    ReachedWithin (k + 1) s P := by
  obtain ⟨n, hn, u, hu, hP⟩ := h
  exact ⟨n + 1, Nat.succ_le_succ hn, u, (steps_succ n s t hstep).trans hu, hP⟩

end

/-! ### The `POLL` loop -/

/-- The `POLL` loop ahead of `rest` has ended: nothing is pending, and the last byte read says so. -/
structure PollEnded (rest : List HostOp) (t : State) : Prop where
  program : t.program = rest
  idle : t.pend = none
  last_read : ∃ v l, t.reads = v :: l ∧ v.getLsbD 0 = false

/-- The host is in the `POLL` loop ahead of `rest`, outside reset. -/
structure Polling (rest : List HostOp) (s : State) : Prop where
  valid : ValidProgram s
  program : s.program = .poll :: rest
  released : s.resetPin = false

section
variable {rest : List HostOp} {s : State} (h : Polling rest s)
include h

/-- The loop does not see the block, nor which turns are left. -/
theorem Polling.congr {t : State} (hprog : t.program = s.program) (hpin : t.resetPin = s.resetPin) :
    Polling rest t :=
  ⟨h.valid.of_program_eq hprog, hprog.trans h.program, hpin.trans h.released⟩

theorem Polling.complete : Polling rest (complete s) := by
  obtain ⟨hprog, -, hpin, -⟩ := complete_keeps_outside s
  exact h.congr hprog hpin

/-- Each turn of the host ends the loop or leaves it going: it ends with `BUSY = 0` read. -/
theorem Polling.pollTurn : (busy s = false ∧ PollEnded rest (pollTurn rest s)) ∨
    (busy s = true ∧ Polling rest (pollTurn rest s)) := by
  rw [pollTurn_eq]
  cases hb : busy s
  · have hbit : (status s).getLsbD 0 = false := (status_getLsbD s).1.trans hb
    exact .inl ⟨rfl, rfl, (busy_eq_false_iff s).mp hb, _, _, rfl, hbit⟩
  · exact .inr ⟨rfl, h.congr rfl rfl⟩

/-- A turn other than the assertion of the reset input ends the loop or leaves it going. -/
theorem Polling.takeTurn {t : State} (turn : Turn) (hne : turn ≠ .resetAssert)
    (ht : takeTurn turn s = .next t) : PollEnded rest t ∨ Polling rest t := by
  cases turn with
  | host =>
    cases (hostTurn_poll h.program h.released).symm.trans ht
    exact h.pollTurn.imp And.right And.right
  | engine => cases ht; exact .inr h.complete
  | resetAssert => exact absurd rfl hne
  | resetRelease => cases ht; exact .inr ⟨h.valid, h.program, rfl⟩

/-- With no turn listed and nothing pending, the next step ends the loop. -/
theorem Polling.ends_idle (hl : s.schedule = []) (hb : busy s = false) :
    ReachedWithin 1 s (PollEnded rest) := by
  have hstep : step s = .next (Machine.pollTurn rest s) := by
    rw [step_default_turn h.valid hl, defaultTurn_idle hb]
    exact hostTurn_poll h.program h.released
  obtain ⟨-, hended⟩ | ⟨hbusy, -⟩ := h.pollTurn
  · exact .after_step hstep (reachedWithin_now hended)
  · exact absurd (hb.symm.trans hbusy) Bool.false_ne_true

/-- With no turn listed, the pending operation is completed first (log entry 1). -/
theorem Polling.ends_default (hl : s.schedule = []) : ReachedWithin 2 s (PollEnded rest) := by
  cases hb : busy s
  · obtain ⟨n, hn, hreached⟩ := h.ends_idle hl hb
    exact ⟨n, hn.trans (by decide), hreached⟩
  · have hstep : step s = .next (Machine.complete s) := by
      rw [step_default_turn h.valid hl, defaultTurn_busy hb]
      rfl
    obtain ⟨-, hsched, -⟩ := complete_keeps_outside s
    exact .after_step hstep
      (h.complete.ends_idle (hsched.trans hl) ((busy_eq_false_iff _).mpr (complete_pend s)))

end

/-- The loop ends within two steps more than the turns listed, by induction on these. -/
theorem Polling.ends {rest : List HostOp} (l : List Turn) (hassert : Turn.resetAssert ∉ l) (s : State)
    (h : Polling rest s) (hl : s.schedule = l) : ReachedWithin (l.length + 2) s (PollEnded rest) := by
  induction l generalizing s with
  | nil => exact h.ends_default hl
  | cons turn l ih =>
    rw [List.mem_cons, not_or] at hassert
    obtain ⟨hturn, hrest⟩ := hassert
    obtain ⟨t, hstep, -, hsched⟩ := step_next h.valid
    rw [hl, List.tail_cons] at hsched
    refine .after_step hstep ?_
    obtain hended | hpolling := (h.congr (t := setSchedule l s) rfl rfl).takeTurn turn
      (Ne.symm hturn) ((step_listed_turn h.valid hl).symm.trans hstep)
    · exact reachedWithin_now hended
    · exact ih hrest t hpolling hsched

end Sys2Proof.Machine
end

section
/-! SUPPORT. The statements on the whole machine: its turns, its runs, and how they end
(40_bus_access.md section 3; 41_cipher.md R117; 60_exceptions.md R190; 70_reset_and_hazards.md R220, R222,
R234). -/

namespace Sys2Proof.Machine

/-- Settles O53, by induction on the number of steps. -/
theorem validProgramsNeverStop : Obligations.ValidProgramsNeverStop := by
  intro s n hvalid
  induction n generalizing s with
  | zero => exact ⟨s, rfl, hvalid⟩
  | succ n ih =>
    obtain ⟨t, hstep, hvalid', -⟩ := step_next hvalid
    rw [steps_succ n s t hstep]
    exact ih t hvalid'

/-- A pending operation ends within one step more than the turns listed, by induction on these: the
default turn is the engine's while it is pending (log entry 1). -/
theorem reachedWithin_idle (l : List Turn) (s : State) (hvalid : ValidProgram s)
    (hl : s.schedule = l) : ReachedWithin (l.length + 1) s (·.pend = none) := by
  induction l generalizing s with
  | nil =>
    cases hb : busy s
    · exact reachedWithin_now ((busy_eq_false_iff s).mp hb)
    · have hstep : step s = .next (complete s) := by
        rw [step_default_turn hvalid hl, defaultTurn_busy hb]
        rfl
      exact .after_step hstep (reachedWithin_now (complete_pend s))
  | cons turn l ih =>
    obtain ⟨t, hstep, hvalid', hsched⟩ := step_next hvalid
    rw [hl, List.tail_cons] at hsched
    exact .after_step hstep (ih t hvalid' hsched)

/-- Settles O56, at the schedule of the state. -/
theorem pendingOperationEnds : Obligations.PendingOperationEnds := fun s hvalid =>
  reachedWithin_idle s.schedule s hvalid rfl

/-- Settles O57, at the schedule of the state. -/
theorem pollLoopEnds : Obligations.PollLoopEnds := by
  intro s rest hvalid hprog hpin hassert
  obtain ⟨n, hn, t, ht, hrest, hidle, v, l, hreads, hbit⟩ :=
    Polling.ends s.schedule hassert s ⟨hvalid, hprog, hpin⟩ rfl
  exact ⟨n, hn, t, v, l, ht, hrest, hidle, hreads, hbit⟩

/-- Settles O21: the three turns. -/
theorem transactionsAreLostInReset : Obligations.TransactionsAreLostInReset := fun _ =>
  ⟨rfl, fun hpin _ _ => ⟨fun hp => hostTurn_txn_in_reset hp hpin,
    fun hp => hostTurn_poll_in_reset hp hpin⟩,
    fun _ hvalid hl => step_listed_turn hvalid hl⟩

/-- A completion does not see which turns are left (41_cipher.md R117). -/
theorem complete_setSchedule (s : State) (l : List Turn) :
    complete (setSchedule l s) = setSchedule l (complete s) := by
  obtain hp | ⟨p, hp⟩ := Option.eq_none_or_eq_some s.pend
  · rw [complete_none s hp, complete_none (setSchedule l s) hp]
  · rw [complete_some s p hp, complete_some (setSchedule l s) p hp]; rfl

/-- Settles O35: the engine's turn with and without a pending operation, and as a listed turn. -/
theorem completionStep : Obligations.CompletionStep := by
  refine ⟨fun s p hp => congrArg Host.Outcome.next (complete_some s p hp),
    fun s hp => congrArg Host.Outcome.next (complete_none s hp), fun s l hvalid hl => ?listed⟩
  case listed =>
    rw [step_listed_turn hvalid hl, takeTurn, complete_setSchedule]
    rfl

/-- A placed word is run by the next step; where it is `INVALID`, the program and the word are refused
alike (R101; log entries 2 and 9). -/
theorem step_placeWord (w : Word) (s : State) : step (placeWord w s) =
    exec (decode w) { s with program := [], schedule := [], resetPin := false } := by
  cases h14 : w.getLsbD 14
  · have hvalid : ValidProgram (placeWord w s) :=
      (validProgram_iff _).mpr fun v hv => by cases List.mem_singleton.mp hv; exact h14
    exact step_host_transaction hvalid rfl rfl rfl
  · have hinv : invalidFrom 0 (placeWord w s).program = some (0, w) :=
      invalidFrom_append 0 [] [] w (by simp) h14
    rw [step_invalid hinv, decode_of_bit14 h14, exec, execInvalid, encode_invalid_fields h14]

/-- Settles O51: the host's turn, listed or by default, and the word placed from outside. -/
theorem stepRunsTheDecodedTransaction : Obligations.StepRunsTheDecodedTransaction := by
  refine ⟨fun s w rest hvalid hprog hpin => ⟨fun l hl => step_host_transaction hvalid hl hprog hpin,
    fun hl hidle => ?default⟩, fun s _ w => step_placeWord (BitVec.ofNat 16 w) s⟩
  case default =>
    rw [step_default_turn hvalid hl, defaultTurn_idle ((busy_eq_false_iff s).mpr hidle)]
    exact hostTurn_txn hprog hpin

/-- Settles O52: the default turn is the host's, who has nothing to issue. -/
theorem idleBlockWaits : Obligations.IdleBlockWaits := by
  intro s hidle hprog hl
  have hb := (busy_eq_false_iff s).mpr hidle
  refine ⟨?step, status s, exec_rd s _, (status_getLsbD s).1.trans hb⟩
  rw [step_default_turn (validProgram_nil hprog) hl, defaultTurn_idle hb]
  exact hostTurn_nil hprog

end Sys2Proof.Machine
end

section
/-! SUPPORT. Loading the operands (30_encoding.md R80; 40_bus_access.md R94 to R98): the two byte files,
and what `LDKEY` and `LDBLK` leave in them. -/

namespace Sys2Proof.Machine

/-- The bytes `bs` stored in `v` from place `i` on. -/
def storeFrom {n : Nat} (v : Vector Byte n) (i : Nat) : List Byte → Vector Byte n
  | [] => v
  | b :: bs => storeFrom (v.setIfInBounds i b) (i + 1) bs

/-- Each place holds its stored byte, or what it held before. -/
theorem storeFrom_getElem {n : Nat} (v : Vector Byte n) (i : Nat) (bs : List Byte) (j : Nat)
    (hj : j < n) : (storeFrom v i bs)[j] = if i ≤ j then bs.getD (j - i) v[j] else v[j] := by
  induction bs generalizing v i with
  | nil => simp [storeFrom]
  | cons b bs ih =>
    rw [storeFrom, ih, Vector.getElem_setIfInBounds]
    obtain hlt | rfl | hgt := Nat.lt_trichotomy i j
    · have hsub : j - i = (j - (i + 1)) + 1 := by omega
      rw [if_pos (by omega), if_neg (by omega), if_pos (by omega), hsub, List.getD_cons_succ]
    · simp
    · rw [if_neg (by omega), if_neg (by omega), if_neg (by omega)]

/-- A file that is filled holds the bytes stored, in order. -/
theorem storeFrom_toList {n : Nat} (v w : Vector Byte n) : storeFrom v 0 w.toList = w := by
  apply Vector.ext
  intro j hj
  rw [storeFrom_getElem, if_pos j.zero_le, Nat.sub_zero, List.getD_eq_getElem _ _ (by simpa using hj)]
  rfl

/-- A byte file of the block: `n` registers in a row from address `base` on, of which a write stores one
byte (20_memory.md R51). -/
structure ByteFile (n : Nat) where
  base : Nat
  get : State → Vector Byte n
  put : Vector Byte n → State → State
  get_put : ∀ v s, get (put v s) = v
  put_get : ∀ s, put (get s) s = s
  put_put : ∀ v w s, put v (put w s) = put v s
  write : ∀ (i : Fin n) (d : Byte) (s : State),
    exec (decodeWrite (BitVec.ofNat 6 (base + i)) d) s = .next (put ((get s).set i d) s)

/-- `KEY` (R98). -/
def keyFile : ByteFile 16 where
  base := 0x20
  get := State.key
  put v s := { s with key := v }
  get_put _ _ := rfl
  put_get _ := rfl
  put_put _ _ _ := rfl
  write i d s := (congrArg (exec · s) (decodeWrite_key i d)).trans (exec_wrKey s i d)

/-- `DIN` (R97). -/
def dinFile : ByteFile 8 where
  base := 0x10
  get := State.din
  put v s := { s with din := v }
  get_put _ _ := rfl
  put_get _ := rfl
  put_put _ _ _ := rfl
  write i d s := (congrArg (exec · s) (decodeWrite_din i d)).trans (exec_wrDin s i d)

/-- The first write of a load, and the load of the other bytes from the next address on. -/
theorem transactions_loadOps_cons (base : Nat) (b : Byte) (bs : List Byte) :
    transactions (loadOps base (b :: bs)) =
      decodeWrite (BitVec.ofNat 6 base) b :: transactions (loadOps (base + 1) bs) := by
  rw [loadOps, loadOps, List.zipIdx_cons', List.map_cons, List.map_map, transactions,
    decode_writeWord]
  simp [Function.comp_def, Nat.add_assoc, Nat.add_comm 1]

/-- A load stores its bytes in the file and changes nothing else, by induction on the bytes. -/
theorem ByteFile.execAll_loadOps {n : Nat} (F : ByteFile n) (i : Nat) (bs : List Byte) (s : State)
    (hlen : i + bs.length ≤ n) : execAll (transactions (loadOps (F.base + i) bs)) s =
      .next (F.put (storeFrom (F.get s) i bs) s) := by
  induction bs generalizing i s with
  | nil =>
    rw [storeFrom, F.put_get]
    rfl
  | cons b bs ih =>
    rw [List.length_cons] at hlen
    have hi : i < n := by omega
    have hset : (F.get s).set i b = (F.get s).setIfInBounds i b := by
      apply Vector.ext
      intro j hj
      rw [Vector.getElem_set, Vector.getElem_setIfInBounds]
    rw [transactions_loadOps_cons, execAll_cons _ _ _ _ (F.write ⟨i, hi⟩ b s), Nat.add_assoc,
      ih (i + 1) _ (by omega), F.get_put, F.put_put, hset, storeFrom]

/-- `LDKEY` (R80). -/
theorem execAll_ldkey (ks : List Byte) (s : State) (hlen : ks.length ≤ 16) :
    execAll (transactions (AsmLine.ldkey ks).expand) s = .next { s with
      key := storeFrom s.key 0 ks, keylen := BitVec.ofNat 8 ks.length } := by
  have hload : execAll (transactions (loadOps 0x20 ks)) s =
      .next { s with key := storeFrom s.key 0 ks } := keyFile.execAll_loadOps 0 ks s (by omega)
  have hlast : transactions [.txn (writeWord Reg.keylen.addr (BitVec.ofNat 8 ks.length))] =
      [.wrKeylen (BitVec.ofNat 8 ks.length)] := congrArg (· :: []) (decode_writeWord _ _)
  rw [expand_ldkey, transactions_append, execAll_append _ _ _ _ hload, hlast]
  rfl

/-- `LDBLK` (R80). -/
theorem execAll_ldblk (bs : Vector Byte 8) (s : State) :
    execAll (transactions (AsmLine.ldblk bs).expand) s =
      .next { s with din := bs, dinlen := 0x08 } := by
  have hload : execAll (transactions (loadOps 0x10 bs.toList)) s =
      .next { s with din := storeFrom s.din 0 bs.toList } :=
    dinFile.execAll_loadOps 0 bs.toList s (by simp)
  have hlast : transactions [.txn (writeWord Reg.dinlen.addr 0x08)] = [.wrDinlen 0x08] :=
    congrArg (· :: []) (decode_writeWord _ _)
  rw [storeFrom_toList] at hload
  rw [expand_ldblk, transactions_append, execAll_append _ _ _ _ hload, hlast]
  rfl

/-- Settles O58: the two loads, and the bytes of the key place by place. -/
theorem loadLinesLoadTheOperands : Obligations.LoadLinesLoadTheOperands := by
  refine ⟨fun ks s hlen => ⟨_, execAll_ldkey ks s hlen, rfl, fun i => ?_⟩,
    fun bs s => execAll_ldblk bs s⟩
  exact (storeFrom_getElem s.key 0 ks i i.isLt).trans (if_pos i.val.zero_le)

end Sys2Proof.Machine
end

section
/-! SUPPORT. The negotiation frame and the time-sync frame (43_checksum.md R160, R164, R165). -/

namespace Sys2Proof.Frames

theorem toList_four (v : Vector Byte 4) : v.toList = [v[0], v[1], v[2], v[3]] :=
  List.ext_getElem (by simp) fun i _ (hi : i < 4) => by interval_cases i <;> rfl

theorem toList_eight (v : Vector Byte 8) :
    v.toList = [v[0], v[1], v[2], v[3], v[4], v[5], v[6], v[7]] :=
  List.ext_getElem (by simp) fun i _ (hi : i < 8) => by interval_cases i <;> rfl

/-- A frame written out, its payload apart (R160). -/
theorem frame_eq (len cmd : Byte) (hdr : Vector Byte 4) (r0 r1 : Byte) (payload : List Byte)
    (chk : Byte) : frame len cmd hdr r0 r1 payload chk =
      [0xA5, len, cmd, hdr[0], hdr[1], hdr[2], hdr[3], r0, r1] ++ payload ++ [chk, 0x5A] := by
  rw [frame, toList_four]
  rfl

theorem length_frame (len cmd : Byte) (hdr : Vector Byte 4) (r0 r1 : Byte) (payload : List Byte)
    (chk : Byte) : (frame len cmd hdr r0 r1 payload chk).length = payload.length + 11 := by
  rw [frame_eq, List.length_append, List.length_append]
  simp only [List.length_cons, List.length_nil]
  omega

/-- The checksum byte is the second to last, whatever the payload (R169). -/
theorem patchChecksum_frame (len cmd : Byte) (hdr : Vector Byte 4) (r0 r1 : Byte)
    (payload : List Byte) (chk b : Byte) : patchChecksum (frame len cmd hdr r0 r1 payload chk) b =
      frame len cmd hdr r0 r1 payload b := by
  simp [patchChecksum, frame_eq]

/-- The two body bytes among the other bytes ahead of the cipher block, in the layout's order. -/
theorem aheadBytes_eq (l : AheadLayout) (c x : Byte) : aheadBytes l c x =
    if l.xorFirst then l.before ++ x :: l.between ++ c :: l.after
    else l.before ++ c :: l.between ++ x :: l.after := by
  unfold aheadBytes
  cases l.xorFirst <;> simp

theorem length_aheadBytes (l : AheadLayout) (c x : Byte) : (aheadBytes l c x).length =
    l.before.length + l.between.length + l.after.length + 2 := by
  simp only [aheadBytes, List.length_append, List.length_cons, List.length_nil]
  omega

/-- The added byte stands at its place (R165). -/
theorem timeBlock_pad (pos : Fin 8) (pad : Byte) (bs : Vector Byte 7) :
    (timeBlock pos pad bs)[pos] = pad := by
  simp [timeBlock]

/-- Ahead of the added byte the time bytes stand at their own places. -/
theorem timeBlock_before {pos : Fin 8} (pad : Byte) (bs : Vector Byte 7) {i : Nat}
    (hlt : i < pos.val) : (timeBlock pos pad bs)[i] = bs[i] := by
  rw [timeBlock, Vector.getElem_ofFn, dif_pos hlt]

/-- After the added byte they stand one place further on. -/
theorem timeBlock_after {pos : Fin 8} (pad : Byte) (bs : Vector Byte 7) {i : Nat}
    (hge : pos.val ≤ i) (hi : i < 7) : (timeBlock pos pad bs)[i + 1] = bs[i] := by
  have hlt : ¬ i + 1 < pos.val := by omega
  have hne : ¬ i + 1 = pos.val := by omega
  rw [timeBlock, Vector.getElem_ofFn, dif_neg hlt, dif_neg hne]
  rfl

/-- Without the added byte, the block is the seven time bytes in order (R165, log entry 16). -/
theorem timeBlock_eraseIdx (pos : Fin 8) (pad : Byte) (bs : Vector Byte 7) :
    (timeBlock pos pad bs).toList.eraseIdx pos = bs.toList := by
  apply List.ext_getElem
  · rw [List.length_eraseIdx_of_lt (by simp), Vector.length_toList, Vector.length_toList]
  · intro i hi hi'
    rw [List.getElem_eraseIdx]
    split
    case isTrue hlt => exact timeBlock_before pad bs hlt
    case isFalse hge => exact timeBlock_after pad bs (Nat.le_of_not_lt hge) (by simpa using hi')

/-- The weekday's byte is its digit (R165). -/
theorem timeBytes_weekday (t : SyncTime) : (timeBytes t)[6].toNat = t.weekday := by
  show (BitVec.ofNat 8 t.weekday).toNat = t.weekday
  rw [BitVec.toNat_ofNat]
  omega

end Sys2Proof.Frames

namespace Sys2Proof.Machine

open Sys2Proof.Frames

/-- The body procedure reads the low byte of the body's sum, then its XOR (R164). -/
theorem execAll_bodyLines (body : List Byte) (s : State) : ∃ t,
    execAll (transactions (assemble (bodyLines body))) s = .next t ∧
      t.reads = byteXor body :: bodySum body :: s.reads := by
  obtain ⟨u, hstream, hreads, -, -, hrun⟩ := execAll_sum_lines body .sumLo s
  have hread : transactions (assemble [.rd .ckxor]) = [.rd Reg.ckxor.addr] :=
    congrArg (· :: []) (decode_busWord_read _ 0x00)
  have hsum : sumLo u = bodySum body := by
    apply BitVec.eq_of_toNat_eq
    rw [sumLo_toNat_of_stream hstream, bodySum, BitVec.toNat_ofNat]
  have hlines : bodyLines body = (.ckclr :: body.map .ckin ++ [.rd .sumLo]) ++ [.rd .ckxor] := by
    simp [bodyLines]
  refine ⟨returnByte u.xor8 (returnByte (sumLo u) u), ?run, ?reads⟩
  case run =>
    rw [hlines, assemble_append, transactions_append, execAll_append _ _ _ _ hrun, hread,
      execAll_cons _ _ _ _ (exec_rd _ _)]
    rfl
  case reads =>
    show u.xor8 :: sumLo u :: u.reads = _
    rw [xor8_of_stream hstream, hsum, hreads]

/-- Settles O59: the body procedure, and the frame around the two bytes it reads. -/
theorem negotiationFrameCarriesTheBodyBytes : Obligations.NegotiationFrameCarriesTheBodyBytes := by
  intro body s
  obtain ⟨t, hrun, hreads⟩ := execAll_bodyLines body s
  refine ⟨t, bodySum body, byteXor body, hrun, hreads, BitVec.toNat_ofNat _ _, byteXor_eq_foldl body,
    fun l hdr r0 r1 cipher chk => ⟨?frame, fun b => patchChecksum_frame .., fun hone => ?length⟩⟩
  case frame =>
    rw [negotiationFrame, frame_eq, aheadBytes_eq, toList_eight]
    simp only [List.append_assoc]
  case length =>
    rw [negotiationFrame, length_frame, List.length_append, length_aheadBytes, hone,
      Vector.length_toList]

/-- A block with an 8-byte key and a block loaded (R80). -/
def withOperands (key block : Vector Byte 8) (s : State) : State :=
  { s with key := storeFrom s.key 0 key.toList, keylen := 0x08, din := block, dinlen := 0x08 }

/-- The loads of the time-sync procedure and its `ENC` (R165). -/
theorem execAll_encrypt_lines (key block : Vector Byte 8) (s : State) :
    execAll (transactions (assemble [.ldkey key.toList, .ldblk block, .enc])) s =
      .next (startCipher .enc (withOperands key block s)) := by
  have hkey := execAll_ldkey key.toList s (by simp)
  rw [Vector.length_toList] at hkey
  have henc : transactions (assemble [.enc]) = [.enc] :=
    congrArg (· :: []) (decode_writeWord Reg.cmd.addr 0x01)
  rw [assemble_cons, assemble_cons, transactions_append, transactions_append,
    execAll_append _ _ _ _ hkey, execAll_append _ _ _ _ (execAll_ldblk block _), henc]
  exact execAll_cons _ _ _ _ (exec_command .enc _)

/-- The first eight bytes of the loaded key are the given ones. -/
theorem withOperands_key (key block : Vector Byte 8) (s : State) (i : Fin 8) :
    (withOperands key block s).key[i.val] = key[i] := by
  refine (storeFrom_getElem s.key 0 key.toList i (by omega)).trans ?_
  rw [if_pos i.val.zero_le, Nat.sub_zero, List.getD_eq_getElem _ _ (by simp)]
  rfl

theorem k64_withOperands (key block : Vector Byte 8) (s : State) :
    k64 (withOperands key block s) = be8 key := by
  have hhead : keyHead (withOperands key block s) = key := by
    apply Vector.ext
    intro i hi
    exact (keyHead_getElem _ ⟨i, hi⟩).trans (withOperands_key key block s ⟨i, hi⟩)
  rw [k64, hhead]

/-- Settles O60: the block, then the accepted `ENC` on the loaded operands and its completion, then the
frame. -/
theorem timeSyncEnciphersUnderTheSessionKey : Obligations.TimeSyncEnciphersUnderTheSessionKey := by
  intro session time pos pad s hidle block
  obtain ⟨hmin, hmax⟩ : 8 ≤ (0x08 : Byte).toNat ∧ (0x08 : Byte).toNat ≤ 16 := by decide
  have hready : Ready (withOperands session block s) := ⟨hidle, hmin, hmax, rfl⟩
  have hweekday := timeBytes_weekday time
  refine ⟨hweekday, by omega, timeBlock_pad pos pad _, timeBlock_eraseIdx pos pad _,
    startCipher .enc (withOperands session block s), rfl, execAll_encrypt_lines session block s, ?_⟩
  rw [complete_startCipher_ready hready, startCipher_ready hready, k64_withOperands]
  refine ⟨withOperands_key session block s, rfl, rfl, rfl, rfl, rfl, rfl, rfl,
    fun len cmd hdr r0 r1 before after chk => ?frame⟩
  case frame =>
    rw [timeSyncFrame, frame_eq]
    simp only [List.append_assoc]

end Sys2Proof.Machine
end
